-- ==== Sys2Proof/Word.lean ====
section
/-! DEFINITION. The word types of the SBME: 32-bit register words (R9), bytes of a word's lanes
(R82), 8-bit operand fields (R101), 12-bit window offsets (R9, R95). -/

namespace Sys2Proof

/-- A register word or a command word: "Register data width: 32 bits" (R9). -/
abbrev Word := BitVec 32

/-- One byte lane of a word (R82). -/
abbrev Byte := BitVec 8

/-- An operand field F1, F2 or F3 of a command word: "an unsigned 8-bit integer" (R101). -/
abbrev Operand := BitVec 8

/-- A byte offset within the 4 KiB window: paddr[11:0] (R9, R95). -/
abbrev Offset := BitVec 12

end Sys2Proof
end

