-- ==== Sys2Proof/Syntax.lean ====
section
/-! DEFINITION. The commands of the opcode map (30_encoding.md R104), one constructor per row of
spec/opcode_table.json, and the statements of the host notation (R109). -/

namespace Sys2Proof

/-- The sixteen rows of R104. Operands are the fields F1, F2, F3 in that order (R101, R102). -/
inductive Instr where
  /-- OP 0x0, R139: validate the table, compute nothing. -/
  | check
  /-- OP 0x1, R184: linear approximation probability. -/
  | lap
  /-- OP 0x2, R185: nonlinearity. -/
  | nl
  /-- OP 0x3, R234: strict avalanche criterion. -/
  | sac
  /-- OP 0x4, R213: differential approximation probability. -/
  | dap
  /-- OP 0x5, R254: bit independence criterion with respect to SAC. -/
  | bicsac
  /-- OP 0x6, R257: bit independence criterion with respect to nonlinearity. -/
  | bicnl
  /-- OP 0x7, R190: one Walsh value, input mask `a`, output mask `b`. -/
  | walsh (a b : Operand)
  /-- OP 0x8, R214: one DDT cell. -/
  | ddt (dx dy : Operand)
  /-- OP 0x9, R235: one avalanche count, input bit `i`, output bit `j`. -/
  | flip (i j : Operand)
  /-- OP 0xA, R253: one correlation cell, flipped input bit `i`, output bits `j`, `k`. -/
  | biccorr (i j k : Operand)
  /-- OP 0xB, R256: the nonlinearity of one pair function. -/
  | bicnlp (j k : Operand)
  /-- OP 0xC, R165: popcount of an 8-bit operand. -/
  | popcnt (x : Operand)
  /-- OP 0xD, R166: GF(2) inner product of two 8-bit operands. -/
  | bitdot (a b : Operand)
  /-- OP 0xE, R281: reserved; `rest` is the word's bits [31:4]. -/
  | reservedE (rest : BitVec 28)
  /-- OP 0xF, R281: reserved; `rest` is the word's bits [31:4]. -/
  | reservedF (rest : BitVec 28)
deriving DecidableEq, Repr

/-- The host-level statements of R109. A label is the position of the statement it stands at
(log 14); a variable is a number. -/
inductive HostStmt where
  /-- `wr OFF, VAL`: `MemWrite(OFF, 4, VAL)`. -/
  | wr (off : Offset) (val : Word)
  /-- `rd OFF -> t`: `t <- MemRead(OFF, 4)`. -/
  | rd (off : Offset) (var : Nat)
  /-- `bnz t, MASK, L`: goes to L if `(t & MASK) != 0`. -/
  | bnz (var : Nat) (mask : Word) (label : Nat)
  /-- `halt`: ends the program. -/
  | halt
deriving DecidableEq, Repr

end Sys2Proof
end

