-- ==== Sys2Proof/Decode.lean ====
section
/-! DEFINITION. Decoding a command word (30_encoding.md R100–R107) and encoding a command (R101,
R104, R108), with the little-endian byte lanes of R82. -/

namespace Sys2Proof

/-- R82: byte offset 0 of a word holds bits [7:0], byte offset 3 holds bits [31:24]. -/
def wordOfBytes (b0 b1 b2 b3 : Byte) : Word := b3 ++ b2 ++ b1 ++ b0

/-- R82: the byte that travels on lane `k` of a word (`k` in 0..3). -/
def byteOfWord (w : Word) (k : Nat) : Byte := w.extractLsb' (8 * k) 8

/-- OP, bits [3:0] (R101). -/
def opField (w : Word) : BitVec 4 := w.extractLsb' 0 4

/-- RSV, bits [7:4] (R101). -/
def rsvField (w : Word) : BitVec 4 := w.extractLsb' 4 4

/-- F1, bits [15:8] (R101). -/
def f1Field (w : Word) : Operand := w.extractLsb' 8 8

/-- F2, bits [23:16] (R101). -/
def f2Field (w : Word) : Operand := w.extractLsb' 16 8

/-- F3, bits [31:24] (R101). -/
def f3Field (w : Word) : Operand := w.extractLsb' 24 8

/-- Why a word is no row of R104 (R106). -/
inductive DecodeError where
  /-- "any word with `RSV != 0`" (and OP below 0xE). -/
  | reservedBitsSet
  /-- "any word with a non-zero operand field that its command does not use". -/
  | unusedOperandSet
  /-- An opcode outside 0..13 given to `decodeOp`; no word reaches it. -/
  | reservedOpcode
  /-- The bytes given are not exactly one command word (R100). -/
  | notOneWord
deriving DecidableEq, Repr

/-- R103: an operand field that the command does not use must be 0. -/
def requireZero (field : Operand) (i : Except DecodeError Instr) : Except DecodeError Instr :=
  if field = 0 then i else .error .unusedOperandSet

/-- R105, the case split on OP below 0xE, once RSV is known to be 0. -/
def decodeOp (op : Nat) (f1 f2 f3 : Operand) : Except DecodeError Instr :=
  match op with
  | 0 => requireZero f1 (requireZero f2 (requireZero f3 (.ok .check)))
  | 1 => requireZero f1 (requireZero f2 (requireZero f3 (.ok .lap)))
  | 2 => requireZero f1 (requireZero f2 (requireZero f3 (.ok .nl)))
  | 3 => requireZero f1 (requireZero f2 (requireZero f3 (.ok .sac)))
  | 4 => requireZero f1 (requireZero f2 (requireZero f3 (.ok .dap)))
  | 5 => requireZero f1 (requireZero f2 (requireZero f3 (.ok .bicsac)))
  | 6 => requireZero f1 (requireZero f2 (requireZero f3 (.ok .bicnl)))
  | 7 => requireZero f3 (.ok (.walsh f1 f2))
  | 8 => requireZero f3 (.ok (.ddt f1 f2))
  | 9 => requireZero f3 (.ok (.flip f1 f2))
  | 10 => .ok (.biccorr f1 f2 f3)
  | 11 => requireZero f3 (.ok (.bicnlp f1 f2))
  | 12 => requireZero f2 (requireZero f3 (.ok (.popcnt f1)))
  | 13 => requireZero f3 (.ok (.bitdot f1 f2))
  | _ => .error .reservedOpcode

/-- R104, R105: the command a word selects. A word with OP 0xE or 0xF is its reserved row whatever
its other bits are (the row's mask is 0x0000000F); any other word needs RSV = 0 (log 13). -/
def decode (w : Word) : Except DecodeError Instr :=
  match (opField w).toNat with
  | 14 => .ok (.reservedE (w.extractLsb' 4 28))
  | 15 => .ok (.reservedF (w.extractLsb' 4 28))
  | op => if rsvField w = 0 then decodeOp op (f1Field w) (f2Field w) (f3Field w)
          else .error .reservedBitsSet

/-- Decoding bytes laid out as R82 says; "every CMD write is exactly one command word" (R100). -/
def decodeBytes : List Byte → Except DecodeError Instr
  | [b0, b1, b2, b3] => decode (wordOfBytes b0 b1 b2 b3)
  | _ => .error .notOneWord

/-- R101: the word with these fields, F3 in the high bits and OP in the low ones. -/
def packWord (op : BitVec 4) (f1 f2 f3 : Operand) : Word := f3 ++ f2 ++ f1 ++ (0 : BitVec 4) ++ op

/-- R104, R108: the word of a command. -/
def encode : Instr → Word
  | .check => packWord 0 0 0 0
  | .lap => packWord 1 0 0 0
  | .nl => packWord 2 0 0 0
  | .sac => packWord 3 0 0 0
  | .dap => packWord 4 0 0 0
  | .bicsac => packWord 5 0 0 0
  | .bicnl => packWord 6 0 0 0
  | .walsh a b => packWord 7 a b 0
  | .ddt dx dy => packWord 8 dx dy 0
  | .flip i j => packWord 9 i j 0
  | .biccorr i j k => packWord 10 i j k
  | .bicnlp j k => packWord 11 j k 0
  | .popcnt x => packWord 12 x 0 0
  | .bitdot a b => packWord 13 a b 0
  | .reservedE rest => rest ++ (14 : BitVec 4)
  | .reservedF rest => rest ++ (15 : BitVec 4)

/-- The bytes of the command word that spec/opcode_table.json numbers as the low `nbits` bits of
`w`, every higher bit 0, in the byte order of R82. -/
def tableWordBytes (nbits w : Nat) : List Byte :=
  (List.range 4).map (byteOfWord (BitVec.ofNat 32 (w % 2 ^ nbits)))

/-- The command that the decoder reads from a row's word (none where it refuses). -/
def decodeTableWord (nbits w : Nat) : Option Instr := (decodeBytes (tableWordBytes nbits w)).toOption

end Sys2Proof
end

