-- ==== Sys2Proof/Config.lean ====
section
/-! DEFINITION. The implementation parameters of 00_scope.md (R7–R9) and the values the spec leaves
open: the table memory's unwritten contents (R311), the window's base (R86), and a host variable
that nothing has assigned (R109). An `opaque` constant has no body, so no proof can learn its value. -/

namespace Sys2Proof.Config

/-- NMAX = 8: "the largest supported table width in bits" (R7). -/
def nmax : Nat := 8

/-- The table memory holds `2^NMAX = 256` entries (R7, R49). -/
def tableEntries : Nat := 2 ^ nmax

/-- FREE VALUE (R311, U1, U17; log 3, log 5): the byte that TABLE shows at a window offset which
holds no written byte. The first argument is the reset count (each reset draws anew), the second the
window offset. "A model must treat each unwritten entry as an unconstrained
draw, and must not assume 0." -/
opaque tableDraw : Nat → Nat → Byte

/-- FREE VALUE (R311, U17; log 5): whether a written entry still holds its value after a reset:
"each entry holds either its value before the reset or an unspecified value; which of the two is not
specified". The first argument is the reset count, the second the entry's index. -/
opaque tableKept : Nat → Nat → Bool

/-- FREE VALUE (log 14): what a host variable of R109 holds before its first `rd`. -/
opaque hostVarInit : Nat → Word

/-- PARAMETER (R9, R86, U8; log 17): SBME_BASE divided by 4096, left open by the spec. -/
opaque sbmeBasePage : Nat

/-- SBME_BASE: "It must be 4 KiB aligned" (R86), so it is a multiple of 4096. -/
def sbmeBase : Nat := 4096 * sbmeBasePage

end Sys2Proof.Config
end

