-- ==== Sys2Proof/Machine/State.lean ====
section
/-! DEFINITION. The state of the SBME (10_state.md), of the host of R109, and the model's own
schedule; the reasons to stop (none: R138); the state right after reset (R310). -/

namespace Sys2Proof.Machine

/-- Nothing stops the SBME: "The SBME does not stop and needs no recovery" (R138), "The SBME is never
left in a state that needs recovery" (R288). An error of a command is a completion, and a bad bus
access is a bus response (R286). So no fault has a constructor (log 16). Safe. -/
inductive Fault where
deriving DecidableEq, Repr

/-- The one refusal of the interface. -/
inductive Refusal where
  /-- Raised by an arm of `exec` whose instruction has no meaning yet; no arm of this model raises
  it. Safe. -/
  | notModelled (mnemonic : String)
deriving DecidableEq, Repr

/-- The table memory's written bytes (and not redrawn by a reset since, R311), by window offset, in
rising order (R49, R82; the form is `Memory.wf` of Ops.lean). -/
abbrev Memory := List Host.Cell

/-- One transfer on the bus port (R83, R95): a read or a write of `bytes` bytes at a byte offset of
the window, single or part of a burst. `data` is pwdata, used by a write. -/
structure Transfer where
  write : Bool
  bytes : Nat
  burst : Bool
  offset : Offset
  data : Word
deriving DecidableEq, Repr

/-- The response to the last completed transfer: prdata and pslverr (R83, R95; log 8). -/
inductive BusResponse where
  /-- No transfer has completed since reset. -/
  | idle
  /-- A read completed with this data on prdata. -/
  | readData (data : Word)
  /-- A write completed. -/
  | writeDone
  /-- A read was answered with pslverr; "A bus-error read returns data 0" (R83). -/
  | readError
  /-- A write was answered with pslverr (R83). -/
  | writeError
deriving DecidableEq, Repr

/-- Which agent moves next (R30, R88; log 1). -/
inductive Turn where
  /-- The engine takes its completion step if it is enabled (R133). -/
  | engine
  /-- The host of R109 executes its next statement. -/
  | host
  /-- Some bus master performs a transfer (R83–R88, R295). -/
  | access (t : Transfer)
  /-- The input rst_n is driven to this level (R310). -/
  | reset (level : Bool)
deriving DecidableEq, Repr

/-- The snapshot of a command: TABLE_LEN and the table memory at acceptance (R50, R131). `epoch`
says which draws its unwritten entries are (R311). -/
structure Snapshot where
  len : Word
  table : Memory
  epoch : Nat
deriving DecidableEq, Repr

/-- The host program of R109: its statements, the position of the next one, its variables (in
rising order, a variable not listed was never assigned), and whether it executed `halt`. -/
structure HostState where
  prog : List HostStmt
  pc : Nat
  vars : List (Nat × Word)
  halted : Bool
deriving DecidableEq, Repr

/-- Everything the spec gives the machine. ID, VERSION and HWCFG are constants (R33–R35), STATUS.ERR
(R42) and irq (R51) are functions of the fields, reserved bits and offsets are 0 (R37, R39, R54):
they have no field (log 12). -/
structure State where
  /-- CTRL.IE (R37). -/
  ie : Bool
  /-- TABLE_LEN (R36). -/
  tableLen : Word
  /-- LASTCMD, the latched command word (R38, R52). -/
  lastCmd : Word
  /-- STATUS.BUSY, the phase (R40, R52). -/
  busy : Bool
  /-- STATUS.DONE (R41). -/
  done : Bool
  /-- STATUS.ERRCODE (R43). -/
  errcode : BitVec 4
  /-- STATUS.OVERRUN (R44). -/
  overrun : Bool
  /-- STATUS.WRBUSY (R45). -/
  wrbusy : Bool
  /-- RES_NUM (R46). -/
  resNum : Word
  /-- RES_DEN (R47). -/
  resDen : Word
  /-- RES_AUX (R48). -/
  resAux : Word
  /-- TABLE (R49): its written bytes (log 3, log 4). -/
  table : Memory
  /-- The snapshot of the last accepted command (R50, R52). -/
  snap : Snapshot
  /-- The level of the input rst_n, active low (R95, R310). -/
  rstN : Bool
  /-- The response to the last completed transfer (R83, R95). -/
  bus : BusResponse
  /-- The MODEL's own: how many resets have been asserted; it picks the free values of the
  table memory (log 5). -/
  epoch : Nat
  /-- The host program of R109 (log 14). -/
  host : HostState
  /-- The MODEL's own: whose turn it is, for as long as the list lasts (log 1). -/
  schedule : List Turn
deriving DecidableEq, Repr

/-- The machine right after reset (R310, R313): every register at the value of R32's table, nothing
in the table memory (R311), rst_n released. The last six fields' values are the model's (log 7, 10,
8, 5, 14, 1). -/
def State.reset : State where
  ie := false
  tableLen := 0
  lastCmd := 0
  busy := false
  done := false
  errcode := 0
  overrun := false
  wrbusy := false
  resNum := 0
  resDen := 0
  resAux := 0
  table := []
  snap := { len := 0, table := [], epoch := 0 }
  rstN := true
  bus := .idle
  epoch := 0
  host := { prog := [], pc := 0, vars := [], halted := false }
  schedule := []

end Sys2Proof.Machine
end

