-- ==== Sys2Proof/Machine/Flags.lean ====
section
/-! DEFINITION. STATUS (R39–R45), CTRL (R37), the error codes (R280) and the irq output (R51). -/

namespace Sys2Proof.Machine

/-- The error completions of R280. -/
inductive CmdError where
  /-- Code 1 (R284): the snapshot's length is not supported for the command. -/
  | invalidTableLength
  /-- Code 2 (R283): some entry below N is at least N. -/
  | valueOutOfRange
  /-- Code 3 (R281): the word is illegal. -/
  | illegalCommand
  /-- Code 4 (R282): an operand is out of range for the table size. -/
  | operandOutOfRange
deriving DecidableEq, Repr

/-- R280: the ERRCODE of an error. -/
def CmdError.code : CmdError → BitVec 4
  | .invalidTableLength => 1
  | .valueOutOfRange => 2
  | .illegalCommand => 3
  | .operandOutOfRange => 4

/-- STATUS.ERR "always equals `(ERRCODE != 0)`" (R42). -/
def State.err (s : State) : Bool := s.errcode != 0

/-- STATUS as read at offset 0x01C: BUSY [0], DONE [1], ERR [2], ERRCODE [7:4], OVERRUN [8],
WRBUSY [9]; bits 3 and [31:10] read as zero (R39). -/
def State.status (s : State) : Word :=
  (0 : BitVec 22) ++ BitVec.ofBool s.wrbusy ++ BitVec.ofBool s.overrun ++ s.errcode ++
    (0 : BitVec 1) ++ BitVec.ofBool s.err ++ BitVec.ofBool s.done ++ BitVec.ofBool s.busy

/-- A write to STATUS "acts only on the W1C bits. A 1 in bit 1, 8 or 9 clears that bit" (R39). Bit 1
acknowledges a completion, which is the whole return from an error (R288). -/
def State.writeStatus (v : Word) (s : State) : State :=
  { s with
    done := s.done && !v.getLsbD 1
    overrun := s.overrun && !v.getLsbD 8
    wrbusy := s.wrbusy && !v.getLsbD 9 }

/-- CTRL as read at offset 0x010: IE in bit 0, the rest zero (R37). -/
def State.ctrl (s : State) : Word := (0 : BitVec 31) ++ BitVec.ofBool s.ie

/-- A write to CTRL takes effect on bit 0 only, busy or not (R37, R323). -/
def State.writeCtrl (v : Word) (s : State) : State := { s with ie := v.getLsbD 0 }

/-- The irq output: `irq = STATUS.DONE & CTRL.IE` (R51, R289). -/
def State.irq (s : State) : Bool := s.done && s.ie

end Sys2Proof.Machine
end

