-- ==== Sys2Proof/Machine/Operands.lean ====
section
/-! DEFINITION. Table widths (R8, R134), operand ranges (R102, R136), and the 32-bit encodings of a
result (R11). -/

namespace Sys2Proof.Machine

/-- R11: "the 32-bit two's-complement encoding of a signed integer". -/
def sext32 (v : Int) : Word := BitVec.ofInt 32 v

/-- R11: "the 32-bit encoding of a non-negative v < 2^32". -/
def zext32 (v : Nat) : Word := BitVec.ofNat 32 v

/-- R134: the `n` in [1, NMAX] with `N = 2^n`, if there is one; the length check for a command that
needs at least `minWidth` bits (1, or 2 for the bit-independence commands, R8). -/
def supportedWidth (minWidth len : Nat) : Option Nat :=
  ((List.range (Config.nmax + 1)).filter (fun n => decide (1 ≤ n) && decide (minWidth ≤ n))).find?
    (fun n => decide (len = 2 ^ n))

/-- R136: a mask or a difference, in `[0, N-1]`. -/
def maskOk (n : Nat) (a : Operand) : Bool := a.toNat < 2 ^ n

/-- R136: a bit index, in `[0, n-1]`. -/
def bitOk (n : Nat) (i : Operand) : Bool := i.toNat < n

/-- R136: two different output bits. -/
def pairOk (n : Nat) (j k : Operand) : Bool := bitOk n j && bitOk n k && decide (j ≠ k)

/-- R136: the commands without operands. -/
def noOperands (_ : Nat) : Bool := true

/-- R136: WALSH a, b and DDT dx, dy. -/
def twoMasksOk (a b : Operand) (n : Nat) : Bool := maskOk n a && maskOk n b

/-- R136: FLIP i, j. -/
def twoBitsOk (i j : Operand) (n : Nat) : Bool := bitOk n i && bitOk n j

/-- R136: BICCORR i, j, k. -/
def bitAndPairOk (i j k : Operand) (n : Nat) : Bool := bitOk n i && pairOk n j k

/-- R136: BICNLP j, k. -/
def bitPairOk (j k : Operand) (n : Nat) : Bool := pairOk n j k

end Sys2Proof.Machine
end

