-- ==== Sys2Proof/Machine/Ops.lean ====
section
/-! DEFINITION. The named operations over the table memory and the registers: reading and writing the
window (R32, R83–R85), accepting and dropping a command (R131, R132), the two completions (R137, and
R138: taking an error), the validation of a table command (R133–R136), and reset (R310–R312). -/

namespace Sys2Proof.Machine

/-! ### Sparse data by key, and the table memory's bytes -/

/-- Set key `a` to `v` in a list kept in strictly rising order of keys. -/
def assocPut {α : Type} (a : Nat) (v : α) : List (Nat × α) → List (Nat × α)
  | [] => [(a, v)]
  | (k, w) :: m =>
    if a < k then (a, v) :: (k, w) :: m
    else if a = k then (a, v) :: m
    else (k, w) :: assocPut a v m

/-- The value at key `a`, if it is listed. -/
def assocGet {α : Type} (a : Nat) : List (Nat × α) → Option α
  | [] => none
  | (k, w) :: m => if a = k then some w else assocGet a m

/-- Keys strictly rising, and each satisfying `ok`. -/
def assocWf {α : Type} (ok : Nat → Bool) : List (Nat × α) → Bool
  | [] => true
  | [(k, _)] => ok k
  | (k, _) :: (k', w) :: m => ok k && decide (k < k') && assocWf ok ((k', w) :: m)

/-- The window offsets of the table memory: 0x400 to 0x7FF (R49, R80). -/
def inTable (a : Nat) : Bool := decide (0x400 ≤ a) && decide (a < 0x800)

/-- The one form of a table memory: strictly rising offsets, each in the TABLE range. An unlisted
offset holds no written byte, so no entry equals what an unlisted offset holds (log 4). -/
def Memory.wf (m : Memory) : Bool := assocWf inTable m

/-- What offset `a` reads as: the byte written there, else this reset's draw (R49, R311; log 3). -/
def Memory.readByte (epoch : Nat) (m : Memory) (a : Nat) : Byte :=
  (assocGet a m).getD (Config.tableDraw epoch a)

/-- A word read: four byte lanes, little-endian (R82). -/
def Memory.readWord (epoch : Nat) (m : Memory) (a : Nat) : Word :=
  wordOfBytes (m.readByte epoch a) (m.readByte epoch (a + 1)) (m.readByte epoch (a + 2))
    (m.readByte epoch (a + 3))

/-- A word write, "in one step" (R84), the four byte lanes little-endian (R82). -/
def Memory.writeWord (a : Nat) (v : Word) (m : Memory) : Memory :=
  assocPut (a + 3) (byteOfWord v 3) (assocPut (a + 2) (byteOfWord v 2)
    (assocPut (a + 1) (byteOfWord v 1) (assocPut a (byteOfWord v 0) m)))

/-- The window offset of TABLE[x]: 0x400 + 4·x (R49). -/
def tableAddr (x : Nat) : Nat := 0x400 + 4 * x

/-- TBL[x], the word that TABLE[x] holds now (R12, R49). -/
def State.tableWord (s : State) (x : Nat) : Word := s.table.readWord s.epoch (tableAddr x)

/-- T[x] of the snapshot, as an unsigned integer (R13, R50, R135). -/
def Snapshot.entry (p : Snapshot) (x : Nat) : Nat := (p.table.readWord p.epoch (tableAddr x)).toNat

/-! ### Commands: acceptance, drop, completion -/

/-- R131: acceptance of word `w`, the effect of a CMD write while idle. Every word is accepted. -/
def State.accept (w : Word) (s : State) : State :=
  { s with
    lastCmd := w
    busy := true
    done := false
    errcode := 0
    snap := { len := s.tableLen, table := s.table, epoch := s.epoch } }

/-- R132, R322: a CMD write while busy; "Its only effect is `STATUS.OVERRUN <- 1`". -/
def State.dropCommand (s : State) : State := { s with overrun := true }

/-- R321: a TABLE or TABLE_LEN write while busy; the stored value does not change. -/
def State.dropTableWrite (s : State) : State := { s with wrbusy := true }

/-- A result triple (R15), as the three register words. -/
structure Triple where
  num : Word
  den : Word
  aux : Word
deriving DecidableEq, Repr

/-- R133: the outcome of a command, `Ok(num, den, aux)` or `Err(E, aux)`. -/
inductive CmdResult where
  | ok (r : Triple)
  | err (e : CmdError) (aux : Word)
deriving DecidableEq, Repr

/-- R137: success completion. -/
def State.succeed (r : Triple) (s : State) : State :=
  { s with
    resNum := r.num
    resDen := r.den
    resAux := r.aux
    errcode := 0
    busy := false
    done := true }

/-- R138, R287: error completion, "the SBME's whole trap". It saves ERRCODE and RES_AUX; the failing
word stays in LASTCMD; there is no mode, no handler and no program counter to change. The return is
`State.writeStatus` with bit 1, or the next `State.accept` (R288). -/
def State.fail (e : CmdError) (aux : Word) (s : State) : State :=
  { s with
    resNum := 0
    resDen := 0
    resAux := aux
    errcode := e.code
    busy := false
    done := true }

/-- R133: the completion step performs R137 or R138 on the outcome. -/
def State.complete (r : CmdResult) (s : State) : State :=
  match r with
  | .ok t => s.succeed t
  | .err e aux => s.fail e aux

/-! ### Validation of a table command -/

/-- The lowest `x < N` with `p x`. -/
def firstBelow (p : Nat → Bool) : Nat → Option Nat
  | 0 => none
  | N + 1 =>
    match firstBelow p N with
    | some x => some x
    | none => if p N then some N else none

/-- R133: a table command over a snapshot. The checks run in the order of R285: the length (R134),
the operands under the width it gives (R136), the values from entry 0 upward (R135); then `compute`
over the width and the table (R13). -/
def tableCommand (minWidth : Nat) (operandsOk : Nat → Bool)
    (compute : Nat → (Nat → Nat) → Triple) (p : Snapshot) : CmdResult :=
  match supportedWidth minWidth p.len.toNat with
  | none => .err .invalidTableLength 0
  | some n =>
    if operandsOk n then
      match firstBelow (fun x => decide (2 ^ n ≤ p.entry x)) (2 ^ n) with
      | some x => .err .valueOutOfRange (zext32 x)
      | none => .ok (compute n p.entry)
    else .err .operandOutOfRange 0

/-! ### The register window -/

/-- The rows of the register map (R32). -/
inductive Register where
  | id | version | hwcfg | ctrl | tableLen | cmd | status | resNum | resDen | resAux
  | table (x : Nat)
  | reserved
deriving DecidableEq, Repr

/-- R32: the register at a word-aligned window offset. -/
def registerAt (off : Offset) : Register :=
  match off.toNat with
  | 0x000 => .id
  | 0x004 => .version
  | 0x008 => .hwcfg
  | 0x010 => .ctrl
  | 0x014 => .tableLen
  | 0x018 => .cmd
  | 0x01C => .status
  | 0x020 => .resNum
  | 0x024 => .resDen
  | 0x028 => .resAux
  | a => if inTable a then .table ((a - 0x400) / 4) else .reserved

/-- R33: "ASCII SBME". -/
def idValue : Word := 0x53424D45

/-- R34: MAJOR 1, MINOR 0. -/
def versionValue : Word := 0x00010000

/-- R35: NMAX in bits [3:0], the rest zero. -/
def hwcfgValue : Word := BitVec.ofNat 32 Config.nmax

/-- What a supported read of the window returns (R32–R49, R54); "No read has a side effect" (R85). -/
def State.readReg (s : State) (off : Offset) : Word :=
  match registerAt off with
  | .id => idValue
  | .version => versionValue
  | .hwcfg => hwcfgValue
  | .ctrl => s.ctrl
  | .tableLen => s.tableLen
  | .cmd => s.lastCmd
  | .status => s.status
  | .resNum => s.resNum
  | .resDen => s.resDen
  | .resAux => s.resAux
  | .table x => s.tableWord x
  | .reserved => 0

/-- A write to TABLE_LEN: any value while idle (R36), dropped while busy (R321). -/
def State.writeTableLen (v : Word) (s : State) : State :=
  if s.busy then s.dropTableWrite else { s with tableLen := v }

/-- A write to TABLE[x]: stored verbatim while idle (R49), dropped while busy (R321). -/
def State.writeTable (x : Nat) (v : Word) (s : State) : State :=
  if s.busy then s.dropTableWrite else { s with table := s.table.writeWord (tableAddr x) v }

/-- A write to CMD: a command issue, accepted when idle (R131), dropped when busy (R132). -/
def State.issue (w : Word) (s : State) : State :=
  if s.busy then s.dropCommand else s.accept w

/-- The effect of a supported write to the window (R32–R49); read-only registers and reserved
offsets ignore it (R33–R35, R46–R48, R54). -/
def State.writeReg (off : Offset) (v : Word) (s : State) : State :=
  match registerAt off with
  | .ctrl => s.writeCtrl v
  | .tableLen => s.writeTableLen v
  | .cmd => s.issue v
  | .status => s.writeStatus v
  | .table x => s.writeTable x v
  | .id | .version | .hwcfg | .resNum | .resDen | .resAux | .reserved => s

/-- R83: "The only supported access is a 32-bit access at an offset with `off[1:0] = 0`", and no
burst. -/
def Transfer.supported (t : Transfer) : Bool :=
  decide (t.bytes = 4) && !t.burst && decide (t.offset.toNat % 4 = 0)

/-- The response of a transfer. -/
def State.respond (r : BusResponse) (s : State) : State := { s with bus := r }

/-- One host access, atomic (R84, R88). An unsupported one gets a bus error and has no effect (R83).
While rst_n is low "bus accesses have no effect, and reads return 0" (R310; log 9). -/
def State.access (t : Transfer) (s : State) : State :=
  if t.supported then
    if t.write then
      (if s.rstN then s.writeReg t.offset t.data else s).respond .writeDone
    else s.respond (.readData (if s.rstN then s.readReg t.offset else 0))
  else s.respond (if t.write then .writeError else .readError)

/-- What prdata shows after a read; nothing is said of it otherwise (R95). -/
def BusResponse.prdata : BusResponse → Option Word
  | .readData d => some d
  | .readError => some 0
  | .idle | .writeDone | .writeError => none

/-- pslverr (R83, R95). -/
def BusResponse.pslverr : BusResponse → Bool
  | .readError | .writeError => true
  | .idle | .readData _ | .writeDone => false

/-- The access of a bus master at a physical address: the window's transfer where the address falls
in the 4 KiB at SBME_BASE (psel, R80, R86, R95), none elsewhere (log 17). -/
def Transfer.atPhysical (write : Bool) (bytes : Nat) (burst : Bool) (addr : Nat) (data : Word) :
    Option Transfer :=
  if Config.sbmeBase ≤ addr ∧ addr < Config.sbmeBase + 0x1000 then
    some { write, bytes, burst, offset := BitVec.ofNat 12 (addr - Config.sbmeBase), data }
  else none

/-! ### Reset -/

/-- R310: every register except TABLE takes its reset value. A command in flight is abandoned
(R312). The host and the schedule are outside the block. -/
def State.resetRegisters (s : State) : State :=
  { State.reset with
    table := s.table, rstN := s.rstN, epoch := s.epoch, host := s.host, schedule := s.schedule }

/-- R311: what reset number `epoch` leaves of the written entries; which of them keep their value is
a free value (log 5). -/
def Memory.kept (epoch : Nat) (m : Memory) : Memory :=
  m.filter (fun c => Config.tableKept epoch ((c.1 - 0x400) / 4))

/-- R311, U17: after a reset each entry of TABLE "holds either its value before the reset or an
unspecified value": some written entries stay, and every other one is a new draw (log 5). -/
def State.redrawTable (s : State) : State :=
  { s with table := s.table.kept (s.epoch + 1), epoch := s.epoch + 1 }

/-- The pin rst_n is driven to `level` (R310): asserted, the registers take their reset values and
the table keeps or redraws its entries; held low or released, the registers have their reset values; driven high
while high, nothing happens (log 10). -/
def State.driveReset (level : Bool) (s : State) : State :=
  match s.rstN, level with
  | true, true => s
  | true, false => { s.resetRegisters.redrawTable with rstN := false }
  | false, l => { s.resetRegisters with rstN := l }

/-- The rest of the schedule once a turn is taken (log 1). -/
def State.withSchedule (ts : List Turn) (s : State) : State := { s with schedule := ts }

end Sys2Proof.Machine
end

