-- ==== Sys2Proof/Machine/Reduce.lean ====
section
/-! DEFINITION. The exact integer reductions of R142: sums, counts, maxima and minima over
`0, 1, …, N-1` or over a list. Their order is unobservable (R143). -/

namespace Sys2Proof.Machine

/-- `Σ_{x=0}^{N-1} f x`, an exact integer sum (R11). -/
def sumBelow {α : Type} [Zero α] [Add α] (f : Nat → α) : Nat → α
  | 0 => 0
  | N + 1 => sumBelow f N + f N

/-- `#{x ∈ [0, N-1] : p x}`. -/
def countBelow (p : Nat → Bool) (N : Nat) : Nat := sumBelow (fun x => if p x then 1 else 0) N

/-- `max {f x : x ∈ [0, N-1]}` of natural numbers (0 for N = 0). -/
def maxBelow (f : Nat → Nat) : Nat → Nat
  | 0 => 0
  | N + 1 => max (maxBelow f N) (f N)

/-- The smallest element of a list (0 for the empty one; R257 takes it over a non-empty set). -/
def minOf : List Nat → Nat
  | [] => 0
  | [v] => v
  | v :: w :: l => min v (minOf (w :: l))

end Sys2Proof.Machine
end

