-- ==== Sys2Proof/Machine/BitAlgebra.lean ====
section
/-! DEFINITION. Bit algebra (41_bit_algebra.md): the popcount tree, the GF(2) parity tree, the sign
map, and the table-free commands POPCNT and BITDOT. -/

namespace Sys2Proof.Machine

/-- `getBit(x, i) = (x >> i) & 1` (R162). -/
def getBit (x i : Nat) : Nat := (x >>> i) &&& 1

/-- `popcount(x) = Σ_{t=0}^{31} x[t]` (R160). -/
def popcount (x : Nat) : Nat := sumBelow (getBit x) 32

/-- `bitDot(a, b) = popcount(a & b) mod 2` (R161). -/
def bitDot (a b : Nat) : Nat := popcount (a &&& b) % 2

/-- `sgn(v) = 1 − 2·v` for `v ∈ {0, 1}` (R163). -/
def sgn (v : Nat) : Int := 1 - 2 * v

/-- `compute_POPCNT` (R165). -/
def computePopcnt (x : Nat) : Triple := { num := zext32 (popcount x), den := 1, aux := 0 }

/-- POPCNT (R165): table-free, so it succeeds whatever TABLE_LEN and TABLE hold (R140). -/
def execPopcnt (x : Operand) (s : State) : Host.Outcome State Fault Refusal :=
  .next (s.complete (.ok (computePopcnt x.toNat)))

/-- `compute_BITDOT` (R166): the parity, and the popcount that it is the parity of. -/
def computeBitdot (a b : Nat) : Triple :=
  { num := zext32 (bitDot a b), den := 1, aux := zext32 (popcount (a &&& b)) }

/-- BITDOT (R166): table-free (R140). -/
def execBitdot (a b : Operand) (s : State) : Host.Outcome State Fault Refusal :=
  .next (s.complete (.ok (computeBitdot a.toNat b.toNat)))

end Sys2Proof.Machine
end

