-- ==== Sys2Proof/Machine/Avalanche.lean ====
section
/-! DEFINITION. The avalanche family (44_avalanche.md): the change vector, SAC and FLIP. -/

namespace Sys2Proof.Machine

/-- The change vector `d_i(x) = S(x) ^ S(x ^ e_i)`, `e_i = 1 << i` (R230). -/
def changeVector (S : Nat → Nat) (i x : Nat) : Nat := S x ^^^ S (x ^^^ (1 <<< i))

/-- `C(i, j) = Σ_{x=0}^{N-1} getBit(d_i(x), j)` (R231). -/
def flipCount (N : Nat) (S : Nat → Nat) (i j : Nat) : Nat :=
  sumBelow (fun x => getBit (changeVector S i x) j) N

/-- `T = Σ_{i=0}^{n-1} Σ_{j=0}^{n-1} C(i, j)` over the n × n matrix (R232, R233). -/
def avalancheTotal (n : Nat) (S : Nat → Nat) : Nat :=
  sumBelow (fun i => sumBelow (fun j => flipCount (2 ^ n) S i j) n) n

/-- `compute_SAC(N, n, S) = (T, n·n·N, 0)` (R234). -/
def computeSac (n : Nat) (S : Nat → Nat) : Triple :=
  { num := zext32 (avalancheTotal n S), den := zext32 (n * n * 2 ^ n), aux := 0 }

/-- SAC (R234). -/
def execSac (s : State) : Host.Outcome State Fault Refusal :=
  .next (s.complete (tableCommand 1 noOperands computeSac s.snap))

/-- `compute_FLIP(i, j) = (C(i, j), N, 0)` (R235). -/
def computeFlip (i j n : Nat) (S : Nat → Nat) : Triple :=
  { num := zext32 (flipCount (2 ^ n) S i j), den := zext32 (2 ^ n), aux := 0 }

/-- FLIP i, j (R235). -/
def execFlip (i j : Operand) (s : State) : Host.Outcome State Fault Refusal :=
  .next (s.complete (tableCommand 1 (twoBitsOk i j) (computeFlip i.toNat j.toNat) s.snap))

end Sys2Proof.Machine
end

