-- ==== Sys2Proof/Machine/Walsh.lean ====
section
/-! DEFINITION. The Walsh family (42_walsh.md): the Walsh transform kernel, LAP, NL and WALSH. -/

namespace Sys2Proof.Machine

/-- `W(a, b) = Σ_{x=0}^{N-1} sgn( bitDot(b, S(x)) ^ bitDot(a, x) )` (R180). -/
def walsh (N : Nat) (S : Nat → Nat) (a b : Nat) : Int :=
  sumBelow (fun x => sgn (bitDot b (S x) ^^^ bitDot a x)) N

/-- `max { |W(a, b)| : a ∈ [0, N-1] }`, a = 0 included (R182, R255). -/
def rowMax (N : Nat) (S : Nat → Nat) (b : Nat) : Nat :=
  maxBelow (fun a => (walsh N S a b).natAbs) N

/-- `M = max { |W(a,b)| : a ∈ [0, N-1], b ∈ [1, N-1] }` (R182): b = 0 is excluded. -/
def linearMax (N : Nat) (S : Nat → Nat) : Nat := maxBelow (fun b => rowMax N S (b + 1)) (N - 1)

/-- `2^(n-1) − M/2` (R183, R255); M is even, so the halving is exact. -/
def nonlinearity (n M : Nat) : Nat := 2 ^ (n - 1) - M / 2

/-- `compute_LAP(N, n, S) = (M, N, 0)` (R184). -/
def computeLap (n : Nat) (S : Nat → Nat) : Triple :=
  { num := zext32 (linearMax (2 ^ n) S), den := zext32 (2 ^ n), aux := 0 }

/-- LAP (R184). -/
def execLap (s : State) : Host.Outcome State Fault Refusal :=
  .next (s.complete (tableCommand 1 noOperands computeLap s.snap))

/-- `compute_NL(N, n, S) = (2^(n-1) − M/2, 1, M)` (R185). -/
def computeNl (n : Nat) (S : Nat → Nat) : Triple :=
  { num := zext32 (nonlinearity n (linearMax (2 ^ n) S)), den := 1,
    aux := zext32 (linearMax (2 ^ n) S) }

/-- NL (R185). -/
def execNl (s : State) : Host.Outcome State Fault Refusal :=
  .next (s.complete (tableCommand 1 noOperands computeNl s.snap))

/-- `compute_WALSH(a, b) = (W(a, b), N, 0)`, RES_NUM signed (R190). -/
def computeWalsh (a b n : Nat) (S : Nat → Nat) : Triple :=
  { num := sext32 (walsh (2 ^ n) S a b), den := zext32 (2 ^ n), aux := 0 }

/-- WALSH a, b (R190): b = 0 is legal. -/
def execWalsh (a b : Operand) (s : State) : Host.Outcome State Fault Refusal :=
  .next (s.complete (tableCommand 1 (twoMasksOk a b) (computeWalsh a.toNat b.toNat) s.snap))

end Sys2Proof.Machine
end

