-- ==== Sys2Proof/Machine/BitIndependence.lean ====
section
/-! DEFINITION. The bit-independence family (45_bit_independence.md): BICCORR, BICSAC, BICNLP, BICNL.
All four need n ≥ 2 (R134). -/

namespace Sys2Proof.Machine

/-- `P = {(j, k) : 0 <= j < k <= n-1}` (R250). -/
def bitPairs (n : Nat) : List (Nat × Nat) :=
  (List.range n).flatMap (fun k => (List.range k).map (fun j => (j, k)))

/-- The pairwise XOR filter `q_{jk}(x, i) = getBit(d_i(x), j) ^ getBit(d_i(x), k)` (R251). -/
def xorFilter (S : Nat → Nat) (i j k x : Nat) : Nat :=
  getBit (changeVector S i x) j ^^^ getBit (changeVector S i x) k

/-- `A(i, j, k) = #{ x ∈ [0, N-1] : q_{jk}(x, i) = 0 }` (R251). -/
def agreements (N : Nat) (S : Nat → Nat) (i j k : Nat) : Nat :=
  countBelow (fun x => decide (xorFilter S i j k x = 0)) N

/-- `2·A(i,j,k) − N`, the numerator of `corr(i, j, k)` (R252). -/
def correlation (N : Nat) (S : Nat → Nat) (i j k : Nat) : Int := 2 * agreements N S i j k - N

/-- `B = Σ_{i=0}^{n-1} Σ_{(j,k) ∈ P} |2·A(i,j,k) − N|` (R254). -/
def correlationTotal (n : Nat) (S : Nat → Nat) : Nat :=
  sumBelow (fun i => ((bitPairs n).map (fun p => (correlation (2 ^ n) S i p.1 p.2).natAbs)).sum) n

/-- `b_{jk} = e_j | e_k` (R255). -/
def pairMask (j k : Nat) : Nat := (1 <<< j) ||| (1 <<< k)

/-- `M_{jk} = max { |W(a, b_{jk})| : a ∈ [0, N-1] }` (R255). -/
def pairMax (N : Nat) (S : Nat → Nat) (j k : Nat) : Nat := rowMax N S (pairMask j k)

/-- `NL_{jk} = 2^(n-1) − M_{jk} / 2` (R255). -/
def pairNonlinearity (n : Nat) (S : Nat → Nat) (j k : Nat) : Nat :=
  nonlinearity n (pairMax (2 ^ n) S j k)

/-- `L = min { NL_{jk} : (j,k) ∈ P }` (R257). -/
def worstPair (n : Nat) (S : Nat → Nat) : Nat :=
  minOf ((bitPairs n).map (fun p => pairNonlinearity n S p.1 p.2))

/-- `compute_BICCORR(i, j, k) = (2·A(i,j,k) − N, N, A(i,j,k))`, RES_NUM signed (R253). -/
def computeBiccorr (i j k n : Nat) (S : Nat → Nat) : Triple :=
  { num := sext32 (correlation (2 ^ n) S i j k), den := zext32 (2 ^ n),
    aux := zext32 (agreements (2 ^ n) S i j k) }

/-- BICCORR i, j, k (R253). -/
def execBiccorr (i j k : Operand) (s : State) : Host.Outcome State Fault Refusal :=
  .next (s.complete (tableCommand 2 (bitAndPairOk i j k)
    (computeBiccorr i.toNat j.toNat k.toNat) s.snap))

/-- `compute_BICSAC(N, n, S) = (B, N · n · n(n−1)/2, 0)` (R254): the mean of absolute values. -/
def computeBicsac (n : Nat) (S : Nat → Nat) : Triple :=
  { num := zext32 (correlationTotal n S), den := zext32 (2 ^ n * n * (n * (n - 1) / 2)), aux := 0 }

/-- BICSAC (R254). -/
def execBicsac (s : State) : Host.Outcome State Fault Refusal :=
  .next (s.complete (tableCommand 2 noOperands computeBicsac s.snap))

/-- `compute_BICNLP(j, k) = (NL_{jk}, 1, M_{jk})` (R256). -/
def computeBicnlp (j k n : Nat) (S : Nat → Nat) : Triple :=
  { num := zext32 (pairNonlinearity n S j k), den := 1, aux := zext32 (pairMax (2 ^ n) S j k) }

/-- BICNLP j, k (R256). -/
def execBicnlp (j k : Operand) (s : State) : Host.Outcome State Fault Refusal :=
  .next (s.complete (tableCommand 2 (bitPairOk j k) (computeBicnlp j.toNat k.toNat) s.snap))

/-- `compute_BICNL(N, n, S) = (L, 1, N − 2·L)` (R257). -/
def computeBicnl (n : Nat) (S : Nat → Nat) : Triple :=
  { num := zext32 (worstPair n S), den := 1, aux := zext32 (2 ^ n - 2 * worstPair n S) }

/-- BICNL (R257). -/
def execBicnl (s : State) : Host.Outcome State Fault Refusal :=
  .next (s.complete (tableCommand 2 noOperands computeBicnl s.snap))

end Sys2Proof.Machine
end

