-- ==== Sys2Proof/Machine/Check.lean ====
section
/-! DEFINITION. CHECK (R139), and the reserved opcodes 0xE and 0xF (R106, R281). -/

namespace Sys2Proof.Machine

/-- `compute_CHECK(N, n, S) = (N, 1, n)` (R139). -/
def computeCheck (n : Nat) (_ : Nat → Nat) : Triple :=
  { num := zext32 (2 ^ n), den := 1, aux := zext32 n }

/-- CHECK (R139): validates the table and computes nothing. -/
def execCheck (s : State) : Host.Outcome State Fault Refusal :=
  .next (s.complete (tableCommand 1 noOperands computeCheck s.snap))

/-- R281: an illegal word completes with IllegalCommand; "It records no value: RES_AUX = 0". -/
def State.completeIllegal (s : State) : State := s.complete (.err .illegalCommand 0)

/-- OP 0xE (R106, R281): accepted, and completes with IllegalCommand whatever its other bits are. -/
def execReservedE (_ : BitVec 28) (s : State) : Host.Outcome State Fault Refusal :=
  .next s.completeIllegal

/-- OP 0xF (R106, R281): accepted, and completes with IllegalCommand whatever its other bits are. -/
def execReservedF (_ : BitVec 28) (s : State) : Host.Outcome State Fault Refusal :=
  .next s.completeIllegal

end Sys2Proof.Machine
end

