-- ==== Sys2Proof/Machine/Difference.lean ====
section
/-! DEFINITION. The difference-distribution family (43_difference_distribution.md): DAP and DDT. -/

namespace Sys2Proof.Machine

/-- `DDT(dx, dy) = #{ x ∈ [0, N-1] : S(x) ^ S(x ^ dx) = dy }` (R210). -/
def ddtCell (N : Nat) (S : Nat → Nat) (dx dy : Nat) : Nat :=
  countBelow (fun x => decide (S x ^^^ S (x ^^^ dx) = dy)) N

/-- `Dmax = max { DDT(dx, dy) : dx ∈ [1, N-1], dy ∈ [0, N-1] }` (R212): dx = 0 is excluded, dy = 0
is included. -/
def differentialMax (N : Nat) (S : Nat → Nat) : Nat :=
  maxBelow (fun d => maxBelow (fun dy => ddtCell N S (d + 1) dy) N) (N - 1)

/-- `compute_DAP(N, n, S) = (Dmax, N, 0)` (R213). -/
def computeDap (n : Nat) (S : Nat → Nat) : Triple :=
  { num := zext32 (differentialMax (2 ^ n) S), den := zext32 (2 ^ n), aux := 0 }

/-- DAP (R213). -/
def execDap (s : State) : Host.Outcome State Fault Refusal :=
  .next (s.complete (tableCommand 1 noOperands computeDap s.snap))

/-- `compute_DDT(dx, dy) = (DDT(dx, dy), N, 0)` (R214). -/
def computeDdt (dx dy n : Nat) (S : Nat → Nat) : Triple :=
  { num := zext32 (ddtCell (2 ^ n) S dx dy), den := zext32 (2 ^ n), aux := 0 }

/-- DDT dx, dy (R214): dx = 0 is permitted here. -/
def execDdt (dx dy : Operand) (s : State) : Host.Outcome State Fault Refusal :=
  .next (s.complete (tableCommand 1 (twoMasksOk dx dy) (computeDdt dx.toNat dy.toNat) s.snap))

end Sys2Proof.Machine
end

