-- ==== Sys2Proof/Machine/Dispatch.lean ====
section
/-! DEFINITION. The completion of each command (R133): one arm per row of spec/opcode_table.json. -/

namespace Sys2Proof.Machine

-- The completion of command i over the state's snapshot (R133).
def exec (i : Instr) (s : State) : Host.Outcome State Fault Refusal :=
  match i with
  | .check => Sys2Proof.Machine.execCheck s
  | .lap => Sys2Proof.Machine.execLap s
  | .nl => Sys2Proof.Machine.execNl s
  | .sac => Sys2Proof.Machine.execSac s
  | .dap => Sys2Proof.Machine.execDap s
  | .bicsac => Sys2Proof.Machine.execBicsac s
  | .bicnl => Sys2Proof.Machine.execBicnl s
  | .walsh a b => Sys2Proof.Machine.execWalsh a b s
  | .ddt dx dy => Sys2Proof.Machine.execDdt dx dy s
  | .flip ib jb => Sys2Proof.Machine.execFlip ib jb s
  | .biccorr ib jb kb => Sys2Proof.Machine.execBiccorr ib jb kb s
  | .bicnlp j k => Sys2Proof.Machine.execBicnlp j k s
  | .popcnt x => Sys2Proof.Machine.execPopcnt x s
  | .bitdot a b => Sys2Proof.Machine.execBitdot a b s
  | .reservedE rest => Sys2Proof.Machine.execReservedE rest s
  | .reservedF rest => Sys2Proof.Machine.execReservedF rest s

end Sys2Proof.Machine
end

