-- ==== Sys2Proof/Machine/HostProgram.lean ====
section
/-! DEFINITION. The host agent of R30 as the notation of R109–R110 writes it: its statements, each
one bus access or one host-local step, and the pseudo-instructions' exact expansions. -/

namespace Sys2Proof.Machine

/-- The transfer of `MemRead(off, 4)` (R12, R109). -/
def readTransfer (off : Offset) : Transfer :=
  { write := false, bytes := 4, burst := false, offset := off, data := 0 }

/-- The transfer of `MemWrite(off, 4, v)` (R12, R109). -/
def writeTransfer (off : Offset) (v : Word) : Transfer :=
  { write := true, bytes := 4, burst := false, offset := off, data := v }

/-- The value of a host variable; a free value before anything assigned it (log 14). -/
def HostState.var (h : HostState) (t : Nat) : Word := (assocGet t h.vars).getD (Config.hostVarInit t)

/-- Go on with the next statement. -/
def HostState.advance (h : HostState) : HostState := { h with pc := h.pc + 1 }

/-- `t <- v`, and go on. -/
def HostState.assign (t : Nat) (v : Word) (h : HostState) : HostState :=
  { h with vars := assocPut t v h.vars, pc := h.pc + 1 }

/-- The host's statement that is next, if the program has not ended (R109, R333). -/
def HostState.current (h : HostState) : Option HostStmt := if h.halted then none else h.prog[h.pc]?

/-- `bnz t, MASK, L`: "goes to L if `(t & MASK) != 0`" (R109). -/
def HostState.branch (t : Nat) (mask : Word) (label : Nat) (h : HostState) : HostState :=
  if h.var t &&& mask = 0 then h.advance else { h with pc := label }

/-- One statement of the host (R109): "one host bus access, or one host-local step". -/
def State.hostStmt (c : HostStmt) (s : State) : State :=
  match c with
  | .wr off v => { s.access (writeTransfer off v) with host := s.host.advance }
  | .rd off t =>
    { s.access (readTransfer off) with
      host := s.host.assign t ((s.access (readTransfer off)).bus.prdata.getD 0) }
  | .bnz t mask label => { s with host := s.host.branch t mask label }
  | .halt => { s with host := { s.host with halted := true } }

/-- The host's turn: its next statement, or nothing once the program has ended. -/
def State.hostTurn (s : State) : State :=
  match s.host.current with
  | some c => s.hostStmt c
  | none => s

/-! ### The pseudo-instructions (R110)

Each gives its statements; `here` is the position of the first one, for the labels of `wait`. -/

/-- `cmd <command>` expands to `wr 0x018, enc(<command>)`. -/
def hostCmd (i : Instr) : List HostStmt := [.wr 0x018 (encode i)]

/-- `wait` expands to `Lw: rd 0x01C -> t ; bnz t, 0x1, Lw`. -/
def hostWait (here t : Nat) : List HostStmt := [.rd 0x01C t, .bnz t 0x1 here]

/-- `ack` expands to `wr 0x01C, 0x00000002`. -/
def hostAck : List HostStmt := [.wr 0x01C 0x00000002]

/-- `run <command>` expands to `cmd <command> ; wait`. -/
def hostRun (here t : Nat) (i : Instr) : List HostStmt := hostCmd i ++ hostWait (here + 1) t

/-- `setlen N` expands to `wr 0x014, N`. -/
def hostSetlen (N : Word) : List HostStmt := [.wr 0x014 N]

/-- `load v0, …, vk` from entry `x` on: `wr 0x400, v0 ; wr 0x404, v1 ; …`. DESIGN CHOICE (log 24): R110
does not bound k, and where `0x400+4k` leaves the 4 KiB window (k >= 768) the offset wraps modulo 2^12,
so that v768 goes to 0x000 and v774 to CMD. -/
def hostLoadFrom (x : Nat) : List Word → List HostStmt
  | [] => []
  | v :: vs => .wr (BitVec.ofNat 12 (tableAddr x)) v :: hostLoadFrom (x + 1) vs

/-- `load v0, v1, …, vk`; for k >= 768 see `hostLoadFrom` (log 24). -/
def hostLoad (vs : List Word) : List HostStmt := hostLoadFrom 0 vs

/-- `result -> (p, q, r)` expands to `rd 0x020 -> p ; rd 0x024 -> q ; rd 0x028 -> r`. -/
def hostResult (p q r : Nat) : List HostStmt := [.rd 0x020 p, .rd 0x024 q, .rd 0x028 r]

end Sys2Proof.Machine
end

