-- ==== Sys2Proof/Machine/Engine.lean ====
section
/-! DEFINITION. The engine's completion step (R133), and one turn of whichever agent moves (R30, R88). -/

namespace Sys2Proof.Machine

/-- R133: evaluate the latched command word. A word that decodes to a row completes as that command;
any other is Illegal (R281). -/
def completion (s : State) : Host.Outcome State Fault Refusal :=
  match decode s.lastCmd with
  | .ok i => exec i s
  | .error _ => .next s.completeIllegal

/-- The engine's turn: completion is "enabled exactly when `STATUS.BUSY = 1`" (R133); otherwise the
engine has no step and nothing changes. -/
def engineTurn (s : State) : Host.Outcome State Fault Refusal :=
  if s.busy then completion s else .next s

/-- One turn (log 1). -/
def takeTurn (t : Turn) (s : State) : Host.Outcome State Fault Refusal :=
  match t with
  | .engine => engineTurn s
  | .host => .next s.hostTurn
  | .access a => .next (s.access a)
  | .reset level => .next (s.driveReset level)

/-- Whose turn it is: the schedule's, as long as it lasts; then the engine's if it is enabled, else
the host's (log 2). -/
def nextTurn (s : State) : Turn :=
  match s.schedule with
  | t :: _ => t
  | [] => if s.busy then .engine else .host

/-- One step of the machine: the agent whose turn it is moves, and the turn is used up. -/
def oneStep (s : State) : Host.Outcome State Fault Refusal :=
  takeTurn (nextTurn s) (s.withSchedule s.schedule.tail)

/-- The schedule under which the engine moves next: unchanged if nothing is scheduled and the engine
is busy, else an engine turn before the rest (log 11). -/
def engineFirst : List Turn → List Turn
  | [] => []
  | ts => .engine :: ts

/-- The command word that spec/opcode_table.json numbers as the low `nbits` bits of `w`. -/
def commandWord (nbits w : Nat) : Word := BitVec.ofNat 32 (w % 2 ^ nbits)

/-- The state in which the engine's very next step completes this command word: the word accepted as
by a CMD write while idle (R131), and the engine to move (log 11). -/
def State.placeCommand (nbits w : Nat) (s : State) : State :=
  (s.accept (commandWord nbits w)).withSchedule (engineFirst s.schedule)

end Sys2Proof.Machine
end

