-- ==== Sys2Proof/Machine/Step.lean ====
section
/-! DEFINITION. The step of the machine, and the command word placed where the next step runs it. -/

namespace Sys2Proof.Machine

/-- One step: one turn of the host, of the engine, or of the reset pin (R30, R88, R310). -/
def step (s : State) : Host.Outcome State Fault Refusal := oneStep s

/-- The state in which the next step runs the command word `w` (log 11). -/
def State.withFetchWord (s : State) (nbits w : Nat) : State := s.placeCommand nbits w

end Sys2Proof.Machine
end

