-- ==== Sys2Proof/Machine/Assembler.lean ====
section
/-! DEFINITION. The command syntax of R108: "the mnemonic in lower case, followed by operands separated
by commas, in the order F1, F2, F3. Each operand is a decimal or `0x` hexadecimal integer in 0..255."
Text is a list of characters. Spaces around the mnemonic and the operands are passed over (log 15). -/

namespace Sys2Proof.Machine

/-- Why a text is no command of R108. -/
inductive AsmError where
  /-- The first word is no mnemonic of R104. -/
  | unknownMnemonic
  /-- An operand is no decimal or `0x` hexadecimal integer. -/
  | notANumber
  /-- An operand is above 255. -/
  | operandTooLarge
  /-- The command does not take this many operands. -/
  | wrongOperandCount
deriving DecidableEq, Repr

/-- R104: mnemonic, OP and number of operands. -/
def mnemonicTable : List (List Char × Nat × Nat) :=
  [(['c', 'h', 'e', 'c', 'k'], 0, 0), (['l', 'a', 'p'], 1, 0), (['n', 'l'], 2, 0),
   (['s', 'a', 'c'], 3, 0), (['d', 'a', 'p'], 4, 0), (['b', 'i', 'c', 's', 'a', 'c'], 5, 0),
   (['b', 'i', 'c', 'n', 'l'], 6, 0), (['w', 'a', 'l', 's', 'h'], 7, 2), (['d', 'd', 't'], 8, 2),
   (['f', 'l', 'i', 'p'], 9, 2), (['b', 'i', 'c', 'c', 'o', 'r', 'r'], 10, 3),
   (['b', 'i', 'c', 'n', 'l', 'p'], 11, 2), (['p', 'o', 'p', 'c', 'n', 't'], 12, 1),
   (['b', 'i', 't', 'd', 'o', 't'], 13, 2)]

/-- Pass over leading spaces. -/
def skipSpaces : List Char → List Char
  | [] => []
  | c :: cs => if c = ' ' then skipSpaces cs else c :: cs

/-- Drop spaces at both ends. -/
def trimSpaces (cs : List Char) : List Char := (skipSpaces (skipSpaces cs).reverse).reverse

/-- The characters up to the next space, and the rest. -/
def firstWord : List Char → List Char × List Char
  | [] => ([], [])
  | c :: cs => if c = ' ' then ([], cs) else (c :: (firstWord cs).1, (firstWord cs).2)

/-- The pieces between commas. -/
def splitCommas : List Char → List (List Char)
  | [] => [[]]
  | c :: cs =>
    if c = ',' then [] :: splitCommas cs
    else
      match splitCommas cs with
      | [] => [[c]]
      | piece :: pieces => (c :: piece) :: pieces

/-- The value of a digit in a base of at most 16. -/
def digitValue (base : Nat) (c : Char) : Option Nat :=
  let d := c.toNat
  let v := if 48 ≤ d ∧ d ≤ 57 then some (d - 48)
    else if 97 ≤ d ∧ d ≤ 102 then some (d - 87)
    else if 65 ≤ d ∧ d ≤ 70 then some (d - 55)
    else none
  v.filter (· < base)

/-- Digits from the most significant on, after the value `acc`. -/
def digitsFrom (base acc : Nat) : List Char → Option Nat
  | [] => some acc
  | c :: cs =>
    match digitValue base c with
    | some d => digitsFrom base (base * acc + d) cs
    | none => none

/-- "a decimal or `0x` hexadecimal integer". -/
def parseNumber : List Char → Option Nat
  | [] => none
  | ['0'] => some 0
  | ['0', 'x'] => none
  | '0' :: 'x' :: cs => digitsFrom 16 0 cs
  | cs => digitsFrom 10 0 cs

/-- One operand, in 0..255. -/
def parseOperand (cs : List Char) : Except AsmError Operand :=
  match parseNumber (trimSpaces cs) with
  | none => .error .notANumber
  | some v => if v < 256 then .ok (BitVec.ofNat 8 v) else .error .operandTooLarge

/-- The operands, separated by commas. -/
def parseOperands : List (List Char) → Except AsmError (List Operand)
  | [] => .ok []
  | p :: ps =>
    match parseOperand p with
    | .error e => .error e
    | .ok v =>
      match parseOperands ps with
      | .error e => .error e
      | .ok vs => .ok (v :: vs)

/-- The operand texts of a command: none at all, or the pieces between commas. -/
def operandPieces (cs : List Char) : List (List Char) :=
  match trimSpaces cs with
  | [] => []
  | ds => splitCommas ds

/-- The command of an opcode with its operands in F1, F2, F3, unused fields 0 (R103). -/
def commandOf (op : Nat) (vs : List Operand) : Except AsmError Instr :=
  match decodeOp op (vs.getD 0 0) (vs.getD 1 0) (vs.getD 2 0) with
  | .ok i => .ok i
  | .error _ => .error .unknownMnemonic

/-- R108: the command that a text writes. -/
def assemble (text : List Char) : Except AsmError Instr :=
  match mnemonicTable.find? (fun r => decide (r.1 = (firstWord (trimSpaces text)).1)) with
  | none => .error .unknownMnemonic
  | some (_, op, count) =>
    match parseOperands (operandPieces (firstWord (trimSpaces text)).2) with
    | .error e => .error e
    | .ok vs => if vs.length = count then commandOf op vs else .error .wrongOperandCount

/-- R108: "The encoding of a command". -/
def assembleWord (text : List Char) : Except AsmError Word :=
  match assemble text with
  | .ok i => .ok (encode i)
  | .error e => .error e

end Sys2Proof.Machine
end

