-- ==== Sys2Proof/WellFormed.lean ====
section
/-! DEFINITION. What makes a term of the syntax well formed. Operand fields are typed with the width
of their encoding (R102), and their ranges depend on TABLE_LEN, which "the decoder does not see"
(R107); so what is left to check of a command is that its opcode is not one of the reserved ones
(R106), and of a host program that every label is a statement of it and that it can end (R109). -/

namespace Sys2Proof

/-- R106: a legal command of this version; "OP values 0xE and 0xF are reserved for future versions". -/
def Instr.wf : Instr → Bool
  | .check | .lap | .nl | .sac | .dap | .bicsac | .bicnl => true
  | .walsh _ _ | .ddt _ _ | .flip _ _ | .biccorr _ _ _ | .bicnlp _ _ => true
  | .popcnt _ | .bitdot _ _ => true
  | .reservedE _ | .reservedF _ => false

/-- R109: a statement of a program of `len` statements; a `bnz` goes to one of them. -/
def HostStmt.wf (len : Nat) : HostStmt → Bool
  | .wr _ _ | .rd _ _ | .halt => true
  | .bnz _ _ label => label < len

/-- R109, R333: every statement is well formed and some `halt` ends the program. -/
def hostProgramWf (prog : List HostStmt) : Bool :=
  prog.all (HostStmt.wf prog.length) && prog.contains .halt

end Sys2Proof
end

