-- ==== Sys2Proof/Safety.lean ====
section
/-! DEFINITION. The terms that claims about the SBME use: the spec's formulas written as mathematics
(41–45), what a valid table and an illegal word are, what one step does on the bus, the two
completions as states, and the invariants of a safe run. -/

namespace Sys2Proof.Safety

open Sys2Proof.Machine

/-! ### The spec's formulas -/

/-- Bit i of a value (R10, R162). -/
def bit (v i : Nat) : Nat := if v.testBit i then 1 else 0

/-- `popcount(x) = Σ_{t=0}^{31} x[t]` (R160). -/
def ones (x : Nat) : Nat := ∑ t ∈ Finset.range 32, bit x t

/-- `bitDot(a, b) = popcount(a & b) mod 2` (R161). -/
def dot (a b : Nat) : Nat := ones (a &&& b) % 2

/-- `W(a, b)`, each term `(-1)^(bitDot(b, S(x)) XOR bitDot(a, x))` (R180). -/
def W (n : Nat) (S : Nat → Nat) (a b : Nat) : Int :=
  ∑ x ∈ Finset.range (2 ^ n), if dot b (S x) = dot a x then 1 else -1

/-- The values whose maximum is M (R182). -/
def linearValues (n : Nat) (S : Nat → Nat) : Set Nat :=
  {m | ∃ a b, a < 2 ^ n ∧ 1 ≤ b ∧ b < 2 ^ n ∧ m = (W n S a b).natAbs}

/-- `DDT(dx, dy) = #{ x ∈ [0, N-1] : S(x) ^ S(x ^ dx) = dy }` (R210). -/
def ddt (n : Nat) (S : Nat → Nat) (dx dy : Nat) : Nat :=
  ((Finset.range (2 ^ n)).filter (fun x => S x ^^^ S (x ^^^ dx) = dy)).card

/-- The values whose maximum is Dmax (R212). -/
def differentialValues (n : Nat) (S : Nat → Nat) : Set Nat :=
  {m | ∃ dx dy, 1 ≤ dx ∧ dx < 2 ^ n ∧ dy < 2 ^ n ∧ m = ddt n S dx dy}

/-- `C(i, j) = #{ x : getBit(S(x), j) != getBit(S(x ^ e_i), j) }` (R231). -/
def flips (n : Nat) (S : Nat → Nat) (i j : Nat) : Nat :=
  ((Finset.range (2 ^ n)).filter (fun x => bit (S x) j ≠ bit (S (x ^^^ 2 ^ i)) j)).card

/-- `T = Σ_i Σ_j C(i, j)` (R233). -/
def flipTotal (n : Nat) (S : Nat → Nat) : Nat :=
  ∑ i ∈ Finset.range n, ∑ j ∈ Finset.range n, flips n S i j

/-- Output bit j changes as input bit i of x is flipped: `Δ_j(x,i)` (R230). -/
def changes (S : Nat → Nat) (i j x : Nat) : Bool := decide (bit (S x) j ≠ bit (S (x ^^^ 2 ^ i)) j)

/-- `A(i, j, k)`: the x for which output bits j and k change together or stay together (R251). -/
def agree (n : Nat) (S : Nat → Nat) (i j k : Nat) : Nat :=
  ((Finset.range (2 ^ n)).filter (fun x => changes S i j x = changes S i k x)).card

/-- `2·A(i,j,k) − N` (R252). -/
def corr (n : Nat) (S : Nat → Nat) (i j k : Nat) : Int := 2 * (agree n S i j k : Int) - 2 ^ n

/-- `B = Σ_i Σ_{j<k} |2·A(i,j,k) − N|` (R250, R254). -/
def corrTotal (n : Nat) (S : Nat → Nat) : Nat :=
  ∑ i ∈ Finset.range n, ∑ k ∈ Finset.range n, ∑ j ∈ Finset.range k, (corr n S i j k).natAbs

/-- The values whose maximum is `M_{jk}` (R255): the output mask is fixed to `e_j | e_k`. -/
def pairValues (n : Nat) (S : Nat → Nat) (j k : Nat) : Set Nat :=
  {m | ∃ a, a < 2 ^ n ∧ m = (W n S a (2 ^ j ||| 2 ^ k)).natAbs}

/-- The values whose minimum is L (R257): `NL_{jk} = 2^(n-1) − M_{jk}/2` of every pair j < k. -/
def pairNonlinearities (n : Nat) (S : Nat → Nat) : Set Nat :=
  {l | ∃ j k m, j < k ∧ k < n ∧ IsGreatest (pairValues n S j k) m ∧ l = 2 ^ (n - 1) - m / 2}

/-! ### Tables, words, commands -/

/-- R8, R134: the length is `2^n` with `1 <= n <= 8`. -/
abbrev HasWidth (p : Snapshot) (n : Nat) : Prop := 1 ≤ n ∧ n ≤ 8 ∧ p.len.toNat = 2 ^ n

/-- R13, R135: a supported length and every entry below it. -/
abbrev ValidTable (p : Snapshot) (n : Nat) : Prop := HasWidth p n ∧ ∀ x < 2 ^ n, p.entry x < 2 ^ n

/-- R106: the illegal words, by their bits. -/
abbrev IllegalWord (w : Word) : Prop :=
  (w >>> 4) &&& 0xF ≠ 0 ∨ 14 ≤ (w &&& 0xF).toNat ∨
  ((w &&& 0xF).toNat ≤ 6 ∧ w >>> 8 ≠ 0) ∨
  ((w &&& 0xF).toNat ∈ [7, 8, 9, 11, 13] ∧ w >>> 24 ≠ 0) ∨
  ((w &&& 0xF).toNat = 12 ∧ w >>> 16 ≠ 0)

/-- R140: POPCNT and BITDOT read no table; neither do the reserved rows. -/
def isTableCommand : Instr → Bool
  | .popcnt _ | .bitdot _ _ | .reservedE _ | .reservedF _ => false
  | .check | .lap | .nl | .sac | .dap | .bicsac | .bicnl => true
  | .walsh _ _ | .ddt _ _ | .flip _ _ | .biccorr _ _ _ | .bicnlp _ _ => true

/-- R8, R134: the bit-independence commands need `n >= 2`. -/
def minimumWidth : Instr → Nat
  | .bicsac | .bicnl | .biccorr _ _ _ | .bicnlp _ _ => 2
  | .check | .lap | .nl | .sac | .dap | .walsh _ _ | .ddt _ _ | .flip _ _ => 1
  | .popcnt _ | .bitdot _ _ | .reservedE _ | .reservedF _ => 1

/-- R134: `supported(N, op)`. -/
def Supported (N : Nat) (i : Instr) : Prop := ∃ n, 1 ≤ n ∧ n ≤ 8 ∧ minimumWidth i ≤ n ∧ N = 2 ^ n

/-- R136: `operands_ok(c, N, n)`. -/
def OperandsInRange (i : Instr) (n : Nat) : Prop :=
  match i with
  | .walsh a b => a.toNat < 2 ^ n ∧ b.toNat < 2 ^ n
  | .ddt dx dy => dx.toNat < 2 ^ n ∧ dy.toNat < 2 ^ n
  | .flip i j => i.toNat < n ∧ j.toNat < n
  | .biccorr i j k => i.toNat < n ∧ j.toNat < n ∧ k.toNat < n ∧ j ≠ k
  | .bicnlp j k => j.toNat < n ∧ k.toNat < n ∧ j ≠ k
  | .check | .lap | .nl | .sac | .dap | .bicsac | .bicnl => True
  | .popcnt _ | .bitdot _ _ | .reservedE _ | .reservedF _ => True

/-- R137: the state after a success completion with this result triple. -/
def succeeded (s : State) (num den aux : Word) : State :=
  { s with resNum := num, resDen := den, resAux := aux, errcode := 0, busy := false, done := true }

/-- R138: the state after an error completion with this code and auxiliary value. -/
def failed (s : State) (code : BitVec 4) (aux : Word) : State :=
  { s with resNum := 0, resDen := 0, resAux := aux, errcode := code, busy := false, done := true }

/-! ### What one step does -/

/-- It is the engine's turn: the schedule says so, or it is empty and a command is in flight. -/
def engineMoves (s : State) : Bool :=
  match s.schedule with
  | [] => s.busy
  | .engine :: _ => true
  | .host :: _ | .access _ :: _ | .reset _ :: _ => false

/-- The transfer a host statement performs (R109). -/
def stmtTransfer : HostStmt → Option Transfer
  | .wr off v => some (writeTransfer off v)
  | .rd off _ => some (readTransfer off)
  | .bnz _ _ _ | .halt => none

/-- The bus transfer that the next step performs, if it performs one. -/
def stepTransfer (s : State) : Option Transfer :=
  match nextTurn s with
  | .access t => some t
  | .host => s.host.current.bind stmtTransfer
  | .engine | .reset _ => none

/-- The next step is an effective register write: a supported write while rst_n is high. -/
abbrev stepWrites (s : State) (off : Offset) (v : Word) : Prop :=
  s.rstN = true ∧ ∃ t, stepTransfer s = some t ∧ t.supported = true ∧ t.write = true ∧
    t.offset = off ∧ t.data = v

/-- The next step is the engine's completion of a command in flight (R133). -/
abbrev stepCompletes (s : State) : Prop := nextTurn s = .engine ∧ s.busy = true

/-- The next step puts, keeps or takes the block out of reset (R310). -/
def stepResets (s : State) : Bool :=
  match nextTurn s with
  | .reset level => !(s.rstN && level)
  | .engine | .host | .access _ => false

/-! ### The invariants of a safe run -/

/-- R49: the table memory and its snapshot keep their one form. -/
def TableForm (s : State) : Prop := s.table.wf = true ∧ s.snap.table.wf = true

/-- R41, R43, R50: while a command is in flight DONE and ERRCODE are 0, and the table, its length and
its draws are those of the snapshot. -/
def BusyForm (s : State) : Prop :=
  s.busy = true → s.done = false ∧ s.errcode = 0 ∧
    s.snap = { len := s.tableLen, table := s.table, epoch := s.epoch }

/-- R138, R280, R47: only codes 0–4 occur; an error leaves no value, and no auxiliary value but for
ValueOutOfRange; an unacknowledged success has a denominator of at least 1. -/
def OutcomeForm (s : State) : Prop :=
  s.errcode.toNat ≤ 4 ∧
  (s.errcode ≠ 0 → s.resNum = 0 ∧ s.resDen = 0) ∧
  (s.errcode ≠ 0 → s.errcode ≠ 2 → s.resAux = 0) ∧
  (s.errcode = 2 → s.resAux.toNat < 256) ∧
  (s.done = true → s.errcode = 0 → 1 ≤ s.resDen.toNat)

/-- R310: while rst_n is low every register has its reset value. -/
def ResetForm (s : State) : Prop :=
  s.rstN = false → s.ie = false ∧ s.tableLen = 0 ∧ s.lastCmd = 0 ∧ s.busy = false ∧
    s.done = false ∧ s.errcode = 0 ∧ s.overrun = false ∧ s.wrbusy = false ∧
    s.resNum = 0 ∧ s.resDen = 0 ∧ s.resAux = 0

end Sys2Proof.Safety
end

