-- ==== Sys2Proof/Certificates/Slice0/Obligations.lean ====
section
/-! DEFINITION. The statements about the SBME that the provers settle. Each docstring names the rule of
spec/ it formalises. `succeeded` and `failed` are whole states: an equation with one of them is the
instruction's completion, its result and its frame at once. -/

open Sys2Proof Sys2Proof.Machine Sys2Proof.Safety

/-! ### Encoding -/

/-- R104, R108: the words the spec itself writes out, and what each one is. -/
def Obligations.SpecWordsDecode : Prop :=
  decode 0x00000000 = .ok .check ∧ decode 0x00000001 = .ok .lap ∧ decode 0x00000002 = .ok .nl ∧
  decode 0x00000003 = .ok .sac ∧ decode 0x00000004 = .ok .dap ∧ decode 0x00000005 = .ok .bicsac ∧
  decode 0x00000006 = .ok .bicnl ∧ decode 0x00480107 = .ok (.walsh 1 72) ∧
  decode 0x001F0108 = .ok (.ddt 1 31) ∧ decode 0x00020109 = .ok (.flip 1 2) ∧
  decode 0x0201000A = .ok (.biccorr 0 1 2) ∧ decode 0x0001020B = .ok (.bicnlp 2 1) ∧
  decode 0x0000A50C = .ok (.popcnt 0xA5) ∧ decode 0x00030F0D = .ok (.bitdot 0x0F 0x03) ∧
  decode 0x0000000E = .ok (.reservedE 0) ∧ decode 0x0000000F = .ok (.reservedF 0)

/-- R101, R104: decoding the word of any command gives the command back, every operand at every value. -/
def Obligations.DecodeOfEncode : Prop := ∀ i : Instr, decode (encode i) = .ok i

/-- R103, R105: "one spelling per command": a word that decodes to a command is that command's word. -/
def Obligations.EncodeOfDecode : Prop := ∀ (w : Word) (i : Instr), decode w = .ok i → encode i = w

/-- R104: "a word w selects the command when `(w & mask) = match`", row by row, with its operands. -/
def Obligations.DecodeSelectsByMatchAndMask : Prop :=
  ∀ w : Word,
    (w &&& 0xFFFFFFFF = 0x00000000 ↔ decode w = .ok .check) ∧
    (w &&& 0xFFFFFFFF = 0x00000001 ↔ decode w = .ok .lap) ∧
    (w &&& 0xFFFFFFFF = 0x00000002 ↔ decode w = .ok .nl) ∧
    (w &&& 0xFFFFFFFF = 0x00000003 ↔ decode w = .ok .sac) ∧
    (w &&& 0xFFFFFFFF = 0x00000004 ↔ decode w = .ok .dap) ∧
    (w &&& 0xFFFFFFFF = 0x00000005 ↔ decode w = .ok .bicsac) ∧
    (w &&& 0xFFFFFFFF = 0x00000006 ↔ decode w = .ok .bicnl) ∧
    (w &&& 0xFF0000FF = 0x00000007 ↔
      decode w = .ok (.walsh (w.extractLsb' 8 8) (w.extractLsb' 16 8))) ∧
    (w &&& 0xFF0000FF = 0x00000008 ↔
      decode w = .ok (.ddt (w.extractLsb' 8 8) (w.extractLsb' 16 8))) ∧
    (w &&& 0xFF0000FF = 0x00000009 ↔
      decode w = .ok (.flip (w.extractLsb' 8 8) (w.extractLsb' 16 8))) ∧
    (w &&& 0x000000FF = 0x0000000A ↔
      decode w = .ok (.biccorr (w.extractLsb' 8 8) (w.extractLsb' 16 8) (w.extractLsb' 24 8))) ∧
    (w &&& 0xFF0000FF = 0x0000000B ↔
      decode w = .ok (.bicnlp (w.extractLsb' 8 8) (w.extractLsb' 16 8))) ∧
    (w &&& 0xFFFF00FF = 0x0000000C ↔ decode w = .ok (.popcnt (w.extractLsb' 8 8))) ∧
    (w &&& 0xFF0000FF = 0x0000000D ↔
      decode w = .ok (.bitdot (w.extractLsb' 8 8) (w.extractLsb' 16 8))) ∧
    (w &&& 0x0000000F = 0x0000000E ↔ decode w = .ok (.reservedE (w.extractLsb' 4 28))) ∧
    (w &&& 0x0000000F = 0x0000000F ↔ decode w = .ok (.reservedF (w.extractLsb' 4 28)))

/-! ### The engine's step -/

/-- R133: on the engine's turn with a command in flight, the step is the latched command's completion;
beside it only the turn is used up. -/
def Obligations.StepRunsDecodedCommand : Prop :=
  ∀ (s : State) (i : Instr), engineMoves s = true → s.busy = true → decode s.lastCmd = .ok i →
    step s = exec i { s with schedule := s.schedule.tail }

/-- R133: completion is enabled exactly when BUSY = 1; on an engine turn while idle nothing changes. -/
def Obligations.EngineIdleChangesNothing : Prop :=
  ∀ (s : State) (ts : List Turn), s.schedule = .engine :: ts → s.busy = false →
    step s = .next { s with schedule := ts }

/-- R281: an illegal word, and no other, completes with IllegalCommand; RES_AUX = 0, LASTCMD keeps it. -/
def Obligations.IllegalWordCompletesIllegal : Prop :=
  ∀ s : State, engineMoves s = true → s.busy = true →
    (IllegalWord s.lastCmd →
      step s = .next (failed { s with schedule := s.schedule.tail } 3 0)) ∧
    (¬ IllegalWord s.lastCmd → ∃ t, step s = .next t ∧ t.errcode ≠ 3)

/-- R138, R286, R288: nothing stops the SBME; every step answers a next state. -/
def Obligations.StepNeverStops : Prop := ∀ s : State, ∃ t, step s = .next t

/-! ### Results of the commands, each with its whole next state -/

/-- R139: CHECK over a valid table gives (N, 1, n). -/
def Obligations.CheckResult : Prop :=
  ∀ (s : State) (n : Nat), ValidTable s.snap n →
    exec .check s = .next (succeeded s (BitVec.ofNat 32 (2 ^ n)) 1 (BitVec.ofNat 32 n))

/-- R182, R184: LAP gives (M, N, 0), M the greatest |W(a,b)| over all a and non-zero b; M is even. -/
def Obligations.LapResult : Prop :=
  ∀ (s : State) (n : Nat), ValidTable s.snap n →
    ∃ M, IsGreatest (linearValues n s.snap.entry) M ∧ 2 ∣ M ∧ M ≤ 2 ^ n ∧
      exec .lap s = .next (succeeded s (BitVec.ofNat 32 M) (BitVec.ofNat 32 (2 ^ n)) 0)

/-- R183, R185: NL gives (2^(n-1) − M/2, 1, M); the halving is exact. -/
def Obligations.NlResult : Prop :=
  ∀ (s : State) (n : Nat), ValidTable s.snap n →
    ∃ M v, IsGreatest (linearValues n s.snap.entry) M ∧ 2 ∣ M ∧ v = 2 ^ (n - 1) - M / 2 ∧
      2 * v + M = 2 ^ n ∧ v ≤ 2 ^ (n - 1) ∧
      exec .nl s = .next (succeeded s (BitVec.ofNat 32 v) 1 (BitVec.ofNat 32 M))

/-- R180, R190: WALSH a, b gives (W(a,b), N, 0), the number signed and read back exactly. -/
def Obligations.WalshResult : Prop :=
  ∀ (s : State) (n : Nat) (a b : Operand), ValidTable s.snap n → a.toNat < 2 ^ n → b.toNat < 2 ^ n →
    ∃ v : Word, v.toInt = W n s.snap.entry a.toNat b.toNat ∧
      exec (.walsh a b) s = .next (succeeded s v (BitVec.ofNat 32 (2 ^ n)) 0)

/-- R212, R213: DAP gives (Dmax, N, 0), Dmax the greatest DDT cell with dx non-zero; 2 <= Dmax <= N. -/
def Obligations.DapResult : Prop :=
  ∀ (s : State) (n : Nat), ValidTable s.snap n →
    ∃ D, IsGreatest (differentialValues n s.snap.entry) D ∧ 2 ≤ D ∧ D ≤ 2 ^ n ∧
      exec .dap s = .next (succeeded s (BitVec.ofNat 32 D) (BitVec.ofNat 32 (2 ^ n)) 0)

/-- R210, R214: DDT dx, dy gives (DDT(dx, dy), N, 0). -/
def Obligations.DdtResult : Prop :=
  ∀ (s : State) (n : Nat) (dx dy : Operand), ValidTable s.snap n → dx.toNat < 2 ^ n →
    dy.toNat < 2 ^ n →
    exec (.ddt dx dy) s = .next (succeeded s
      (BitVec.ofNat 32 (ddt n s.snap.entry dx.toNat dy.toNat)) (BitVec.ofNat 32 (2 ^ n)) 0)

/-- R233, R234: SAC gives (T, n·n·N, 0); T is also the sum of the change vectors' popcounts. -/
def Obligations.SacResult : Prop :=
  ∀ (s : State) (n : Nat), ValidTable s.snap n →
    flipTotal n s.snap.entry = ∑ i ∈ Finset.range n, ∑ x ∈ Finset.range (2 ^ n),
      ones (s.snap.entry x ^^^ s.snap.entry (x ^^^ 2 ^ i)) ∧
    flipTotal n s.snap.entry ≤ n * n * 2 ^ n ∧
    exec .sac s = .next (succeeded s (BitVec.ofNat 32 (flipTotal n s.snap.entry))
      (BitVec.ofNat 32 (n * n * 2 ^ n)) 0)

/-- R231, R235: FLIP i, j gives (C(i, j), N, 0); C(i, j) is the sum of bit j of the change vectors and
the number of x where the output bits differ, even, and at most N. -/
def Obligations.FlipResult : Prop :=
  ∀ (s : State) (n : Nat) (i j : Operand), ValidTable s.snap n → i.toNat < n → j.toNat < n →
    flips n s.snap.entry i.toNat j.toNat = ∑ x ∈ Finset.range (2 ^ n),
      bit (s.snap.entry x ^^^ s.snap.entry (x ^^^ 2 ^ i.toNat)) j.toNat ∧
    2 ∣ flips n s.snap.entry i.toNat j.toNat ∧ flips n s.snap.entry i.toNat j.toNat ≤ 2 ^ n ∧
    exec (.flip i j) s = .next (succeeded s
      (BitVec.ofNat 32 (flips n s.snap.entry i.toNat j.toNat)) (BitVec.ofNat 32 (2 ^ n)) 0)

/-- R251–R253: BICCORR i, j, k gives (2A − N, N, A), the number signed and read back exactly; A is
even and at most N, 2A − N is the sum of the products of signs, and j and k may be exchanged. -/
def Obligations.BiccorrResult : Prop :=
  ∀ (s : State) (n : Nat) (i j k : Operand), ValidTable s.snap n → i.toNat < n → j.toNat < n →
    k.toNat < n → j ≠ k →
    2 ∣ agree n s.snap.entry i.toNat j.toNat k.toNat ∧
    agree n s.snap.entry i.toNat j.toNat k.toNat ≤ 2 ^ n ∧
    corr n s.snap.entry i.toNat j.toNat k.toNat = ∑ x ∈ Finset.range (2 ^ n),
      (if changes s.snap.entry i.toNat j.toNat x then (-1 : Int) else 1) *
        (if changes s.snap.entry i.toNat k.toNat x then (-1 : Int) else 1) ∧
    exec (.biccorr i j k) s = exec (.biccorr i k j) s ∧
    ∃ v : Word, v.toInt = corr n s.snap.entry i.toNat j.toNat k.toNat ∧
      exec (.biccorr i j k) s = .next (succeeded s v (BitVec.ofNat 32 (2 ^ n))
        (BitVec.ofNat 32 (agree n s.snap.entry i.toNat j.toNat k.toNat)))

/-- R250, R254: BICSAC gives (B, N·n·n(n−1)/2, 0), with B at most the denominator. -/
def Obligations.BicsacResult : Prop :=
  ∀ (s : State) (n : Nat), ValidTable s.snap n → 2 ≤ n →
    corrTotal n s.snap.entry ≤ 2 ^ n * n * (n * (n - 1) / 2) ∧
    exec .bicsac s = .next (succeeded s (BitVec.ofNat 32 (corrTotal n s.snap.entry))
      (BitVec.ofNat 32 (2 ^ n * n * (n * (n - 1) / 2))) 0)

/-- R255, R256: BICNLP j, k gives (NL_jk, 1, M_jk), f_jk being the sum of output bits j and k; M_jk is even, NL_jk is at most 2^(n-1), and j and
k may be exchanged. -/
def Obligations.BicnlpResult : Prop :=
  ∀ (s : State) (n : Nat) (j k : Operand), ValidTable s.snap n → j.toNat < n → k.toNat < n → j ≠ k →
    (∀ x < 2 ^ n, dot (2 ^ j.toNat ||| 2 ^ k.toNat) (s.snap.entry x) =
      bit (s.snap.entry x) j.toNat ^^^ bit (s.snap.entry x) k.toNat) ∧
    exec (.bicnlp j k) s = exec (.bicnlp k j) s ∧
    ∃ M v, IsGreatest (pairValues n s.snap.entry j.toNat k.toNat) M ∧ 2 ∣ M ∧ M ≤ 2 ^ n ∧
      v = 2 ^ (n - 1) - M / 2 ∧ v ≤ 2 ^ (n - 1) ∧
      exec (.bicnlp j k) s = .next (succeeded s (BitVec.ofNat 32 v) 1 (BitVec.ofNat 32 M))

/-- R257: BICNL gives (L, 1, N − 2L), L the least pair nonlinearity. -/
def Obligations.BicnlResult : Prop :=
  ∀ (s : State) (n : Nat), ValidTable s.snap n → 2 ≤ n →
    ∃ L, IsLeast (pairNonlinearities n s.snap.entry) L ∧ 2 * L ≤ 2 ^ n ∧
      exec .bicnl s = .next (succeeded s (BitVec.ofNat 32 L) 1 (BitVec.ofNat 32 (2 ^ n - 2 * L)))

/-- R140, R160, R165: POPCNT gives (popcount(x), 1, 0) in every state, with a result in [0, 8]. -/
def Obligations.PopcntResult : Prop :=
  ∀ (s : State) (x : Operand), ones x.toNat ≤ 8 ∧
    exec (.popcnt x) s = .next (succeeded s (BitVec.ofNat 32 (ones x.toNat)) 1 0)

/-- R140, R161, R166: BITDOT gives (parity, 1, popcount) of a & b in every state. -/
def Obligations.BitdotResult : Prop :=
  ∀ (s : State) (a b : Operand), dot a.toNat b.toNat < 2 ∧
    exec (.bitdot a b) s = .next (succeeded s (BitVec.ofNat 32 (dot a.toNat b.toNat)) 1
      (BitVec.ofNat 32 (ones (a.toNat &&& b.toNat))))

/-- R106, R281: a reserved opcode's own effect is the IllegalCommand completion, in every state. -/
def Obligations.ReservedOpcodesCompleteIllegal : Prop :=
  ∀ (s : State) (rest : BitVec 28),
    exec (.reservedE rest) s = .next (failed s 3 0) ∧ exec (.reservedF rest) s = .next (failed s 3 0)

/-! ### Errors -/

/-- R284, R134: a table command over an unsupported length fails with InvalidTableLength. -/
def Obligations.UnsupportedLengthFails : Prop :=
  ∀ (s : State) (i : Instr), isTableCommand i = true → ¬ Supported s.snap.len.toNat i →
    exec i s = .next (failed s 1 0)

/-- R282, R136: over a supported length, an operand out of range fails with OperandOutOfRange,
whatever the table holds. -/
def Obligations.OperandOutOfRangeFails : Prop :=
  ∀ (s : State) (i : Instr) (n : Nat), isTableCommand i = true → HasWidth s.snap n →
    minimumWidth i ≤ n → ¬ OperandsInRange i n → exec i s = .next (failed s 4 0)

/-- R283, R135: an entry x below N with T[x] >= N, the lowest one, fails with ValueOutOfRange and
leaves x in RES_AUX. -/
def Obligations.LowestBadEntryFails : Prop :=
  ∀ (s : State) (i : Instr) (n x : Nat), isTableCommand i = true → HasWidth s.snap n →
    minimumWidth i ≤ n → OperandsInRange i n → x < 2 ^ n → 2 ^ n ≤ s.snap.entry x →
    (∀ y < x, s.snap.entry y < 2 ^ n) → exec i s = .next (failed s 2 (BitVec.ofNat 32 x))

/-- R285: of the errors that apply to the latched word, the completion reports exactly the first in
the order illegal, length, operand, value, this last one at the lowest index; and none if none
applies. -/
def Obligations.FirstErrorIsReported : Prop :=
  ∀ (s t : State), engineMoves s = true → s.busy = true → step s = .next t →
    (t.errcode = 3 ↔ IllegalWord s.lastCmd) ∧
    (t.errcode = 1 ↔ ¬ IllegalWord s.lastCmd ∧ ∃ i, decode s.lastCmd = .ok i ∧
      isTableCommand i = true ∧ ¬ Supported s.snap.len.toNat i) ∧
    (t.errcode = 4 ↔ ¬ IllegalWord s.lastCmd ∧ ∃ i n, decode s.lastCmd = .ok i ∧
      isTableCommand i = true ∧ HasWidth s.snap n ∧ minimumWidth i ≤ n ∧ ¬ OperandsInRange i n) ∧
    (t.errcode = 2 ↔ ¬ IllegalWord s.lastCmd ∧ ∃ i n, decode s.lastCmd = .ok i ∧
      isTableCommand i = true ∧ HasWidth s.snap n ∧ minimumWidth i ≤ n ∧ OperandsInRange i n ∧
      ∃ x < 2 ^ n, 2 ^ n ≤ s.snap.entry x) ∧
    (t.errcode = 2 → t.resAux.toNat < s.snap.len.toNat ∧
      s.snap.len.toNat ≤ s.snap.entry t.resAux.toNat ∧
      ∀ y < t.resAux.toNat, s.snap.entry y < s.snap.len.toNat) ∧
    t.errcode.toNat ≤ 4

/-! ### Frames and determinism -/

/-- R131, R137, R138, R287: whatever its outcome, a completion writes the result triple, ERRCODE, BUSY
and DONE, and nothing else: every other field, and every byte of the table memory, is as before. -/
def Obligations.CompletionFrame : Prop :=
  ∀ (i : Instr) (s t : State), exec i s = .next t →
    t.busy = false ∧ t.done = true ∧ t.ie = s.ie ∧ t.tableLen = s.tableLen ∧
    t.lastCmd = s.lastCmd ∧ t.overrun = s.overrun ∧ t.wrbusy = s.wrbusy ∧ t.snap = s.snap ∧
    t.rstN = s.rstN ∧ t.bus = s.bus ∧ t.host = s.host ∧ t.schedule = s.schedule ∧
    t.epoch = s.epoch ∧
    ∀ a, Memory.readByte t.epoch t.table a = Memory.readByte s.epoch s.table a

/-- R141, R94: a completion's outcome is a function of the command and of the snapshot's length and
entries below it; no other state, and no entry at or above N, can influence it. -/
def Obligations.OutcomeDependsOnlyOnSnapshot : Prop :=
  ∀ (i : Instr) (s s' t t' : State), s.snap.len = s'.snap.len →
    (∀ x < s.snap.len.toNat, x < 256 → s.snap.entry x = s'.snap.entry x) →
    exec i s = .next t → exec i s' = .next t' →
    t.resNum = t'.resNum ∧ t.resDen = t'.resDen ∧ t.resAux = t'.resAux ∧ t.errcode = t'.errcode

/-! ### Host accesses -/

/-- R131: a CMD write while idle accepts its word, whatever the word. -/
def Obligations.CommandAccepted : Prop :=
  ∀ (s : State) (w : Word) (ts : List Turn),
    s.schedule = .access (writeTransfer 0x018 w) :: ts → s.rstN = true → s.busy = false →
    step s = .next { s with
      lastCmd := w, busy := true, done := false, errcode := 0,
      snap := { len := s.tableLen, table := s.table, epoch := s.epoch },
      bus := .writeDone, schedule := ts }

/-- R132: a CMD write while busy only sets OVERRUN. -/
def Obligations.CommandDropped : Prop :=
  ∀ (s : State) (w : Word) (ts : List Turn),
    s.schedule = .access (writeTransfer 0x018 w) :: ts → s.rstN = true → s.busy = true →
    step s = .next { s with overrun := true, bus := .writeDone, schedule := ts }

/-- R36: TABLE_LEN takes and gives back every 32-bit value while idle. -/
def Obligations.TableLenHoldsAnyValue : Prop :=
  ∀ (s : State) (v : Word) (ts : List Turn),
    s.schedule = .access (writeTransfer 0x014 v) :: ts → s.rstN = true → s.busy = false →
    ∃ t, step s = .next t ∧ t = { s with tableLen := v, bus := .writeDone, schedule := ts } ∧
      t.readReg 0x014 = v

/-- R49: a TABLE write while idle stores the word verbatim, and leaves every other entry and every
byte outside its word as it was. -/
def Obligations.TableWriteStoresVerbatim : Prop :=
  ∀ (s : State) (x : Nat) (v : Word) (ts : List Turn), x < 256 →
    s.schedule = .access (writeTransfer (BitVec.ofNat 12 (0x400 + 4 * x)) v) :: ts →
    s.rstN = true → s.busy = false →
    ∃ t, step s = .next t ∧ t = { s with table := t.table, bus := .writeDone, schedule := ts } ∧
      t.tableWord x = v ∧ (∀ y, y ≠ x → t.tableWord y = s.tableWord y) ∧
      ∀ a, a < tableAddr x ∨ tableAddr x + 4 ≤ a →
        Memory.readByte t.epoch t.table a = Memory.readByte s.epoch s.table a

/-- R321: while busy, a write to any TABLE word or to TABLE_LEN is dropped and sets WRBUSY. -/
def Obligations.TableWriteDroppedWhileBusy : Prop :=
  ∀ (s : State) (off : Offset) (v : Word) (ts : List Turn),
    s.schedule = .access (writeTransfer off v) :: ts → s.rstN = true → s.busy = true →
    off.toNat % 4 = 0 → (off = 0x014 ∨ (0x400 ≤ off.toNat ∧ off.toNat ≤ 0x7FC)) →
    step s = .next { s with wrbusy := true, bus := .writeDone, schedule := ts }

/-- R37: CTRL may be written at any time; bit 0 is IE, the other bits ignore writes and read as 0. -/
def Obligations.CtrlWriteSetsEnable : Prop :=
  ∀ (s : State) (v : Word) (ts : List Turn),
    s.schedule = .access (writeTransfer 0x010 v) :: ts → s.rstN = true →
    ∃ t, step s = .next t ∧
      t = { s with ie := v.getLsbD 0, bus := .writeDone, schedule := ts } ∧
      t.readReg 0x010 = v &&& 1

/-- R39: STATUS bit by bit, and a write that acts only on the three W1C bits. -/
def Obligations.StatusFieldsAndClears : Prop :=
  State.reset.status = 0 ∧
  (∀ s : State,
    s.status.getLsbD 0 = s.busy ∧ s.status.getLsbD 1 = s.done ∧
    s.status.getLsbD 2 = decide (s.errcode ≠ 0) ∧ s.status.getLsbD 3 = false ∧
    s.status.extractLsb' 4 4 = s.errcode ∧ s.status.getLsbD 8 = s.overrun ∧
    s.status.getLsbD 9 = s.wrbusy ∧ ∀ k, 10 ≤ k → s.status.getLsbD k = false) ∧
  ∀ (s : State) (v : Word) (ts : List Turn),
    s.schedule = .access (writeTransfer 0x01C v) :: ts → s.rstN = true →
    step s = .next { s with
      done := if v.getLsbD 1 then false else s.done,
      overrun := if v.getLsbD 8 then false else s.overrun,
      wrbusy := if v.getLsbD 9 then false else s.wrbusy,
      bus := .writeDone, schedule := ts }

/-- R32, R85: what a read of each word-aligned offset returns; and no read has a side effect. -/
def Obligations.RegisterReads : Prop :=
  ∀ (s : State) (off : Offset) (ts : List Turn),
    s.schedule = .access (readTransfer off) :: ts → s.rstN = true → off.toNat % 4 = 0 →
    ∃ v, step s = .next { s with bus := .readData v, schedule := ts } ∧
      (off = 0x000 → v = 0x53424D45) ∧ (off = 0x004 → v = 0x00010000) ∧
      (off = 0x008 → v = 0x00000008) ∧ (off = 0x010 → v = if s.ie then 1 else 0) ∧
      (off = 0x014 → v = s.tableLen) ∧ (off = 0x018 → v = s.lastCmd) ∧
      (off = 0x01C → v = s.status) ∧ (off = 0x020 → v = s.resNum) ∧
      (off = 0x024 → v = s.resDen) ∧ (off = 0x028 → v = s.resAux) ∧
      (∀ x < 256, off.toNat = 0x400 + 4 * x → v = s.tableWord x) ∧
      (off = 0x00C ∨ (0x02C ≤ off.toNat ∧ off.toNat ≤ 0x3FC) ∨ 0x800 ≤ off.toNat → v = 0)

/-- R33–R35, R46–R48, R54: writes to read-only registers and reserved offsets are ignored, without a
bus error; that this is so while rst_n is low too is the model's reading (log 9). -/
def Obligations.ReadOnlyWritesIgnored : Prop :=
  ∀ (s : State) (off : Offset) (v : Word) (ts : List Turn),
    s.schedule = .access (writeTransfer off v) :: ts → off.toNat % 4 = 0 →
    (off.toNat ≤ 0x00C ∨ (0x020 ≤ off.toNat ∧ off.toNat ≤ 0x3FC) ∨ 0x800 ≤ off.toNat) →
    step s = .next { s with bus := .writeDone, schedule := ts }

/-- R83: any access but an aligned single 32-bit one gets a bus error, reads 0, and changes nothing. That
it gets its bus error while rst_n is low too is the model's reading of R83 beside R310 (log 9). -/
def Obligations.BusErrorHasNoEffect : Prop :=
  ∀ (s : State) (a : Transfer) (ts : List Turn), s.schedule = .access a :: ts →
    (a.bytes ≠ 4 ∨ a.burst = true ∨ a.offset.toNat % 4 ≠ 0) →
    ∃ r, step s = .next { s with bus := r, schedule := ts } ∧ r.pslverr = true ∧
      (a.write = false → r.prdata = some 0)

/-- R51: `irq = STATUS.DONE & CTRL.IE`; it follows a completion when IE = 1 and falls at acceptance. -/
def Obligations.IrqFollowsDoneAndEnable : Prop :=
  (∀ s : State, s.irq = (s.status.getLsbD 1 && s.ctrl.getLsbD 0)) ∧
  (∀ (i : Instr) (s t : State), exec i s = .next t → t.irq = s.ie) ∧
  (∀ (s : State) (w : Word), (s.accept w).irq = false) ∧ State.reset.irq = false

/-! ### What changes each piece of state -/

/-- R40: BUSY is set only by acceptance, and cleared only by completion and by reset. -/
def Obligations.BusyChangesOnly : Prop :=
  State.reset.busy = false ∧ ∀ (s t : State), step s = .next t →
    (t.busy = true ↔ (s.busy = true ∧ ¬ stepCompletes s ∧ stepResets s = false) ∨
      (s.busy = false ∧ ∃ w, stepWrites s 0x018 w))

/-- R41: DONE is set by completion; acceptance, a STATUS write with bit 1 set, and reset clear it. -/
def Obligations.DoneChangesOnly : Prop :=
  State.reset.done = false ∧ ∀ (s t : State), step s = .next t →
    (t.done = true ↔ stepCompletes s ∨ (s.done = true ∧ stepResets s = false ∧
      ¬ (s.busy = false ∧ ∃ w, stepWrites s 0x018 w) ∧
      ¬ ∃ v, stepWrites s 0x01C v ∧ v.getLsbD 1 = true))

/-- R43: acceptance and reset clear ERRCODE; completion writes it, 0 exactly when the result has a
value (R47); and nothing else changes it, an acknowledgement included. -/
def Obligations.ErrcodeChangesOnly : Prop :=
  State.reset.errcode = 0 ∧ ∀ (s t : State), step s = .next t →
    ((s.busy = false ∧ ∃ w, stepWrites s 0x018 w) → t.errcode = 0) ∧
    (stepResets s = true → t.errcode = 0) ∧
    (stepCompletes s → (t.errcode = 0 ↔ 1 ≤ t.resDen.toNat)) ∧
    (¬ stepCompletes s → stepResets s = false → ¬ (s.busy = false ∧ ∃ w, stepWrites s 0x018 w) →
      t.errcode = s.errcode)

/-- R44: a CMD write while busy sets OVERRUN; a STATUS write with bit 8 set and reset clear it. -/
def Obligations.OverrunChangesOnly : Prop :=
  State.reset.overrun = false ∧ ∀ (s t : State), step s = .next t →
    (t.overrun = true ↔ stepResets s = false ∧
      ((s.busy = true ∧ ∃ w, stepWrites s 0x018 w) ∨
        (s.overrun = true ∧ ¬ ∃ v, stepWrites s 0x01C v ∧ v.getLsbD 8 = true)))

/-- R45: a TABLE or TABLE_LEN write while busy sets WRBUSY; a STATUS write with bit 9 set and reset
clear it. -/
def Obligations.WrbusyChangesOnly : Prop :=
  State.reset.wrbusy = false ∧ ∀ (s t : State), step s = .next t →
    (t.wrbusy = true ↔ stepResets s = false ∧
      ((s.busy = true ∧ ∃ off v, stepWrites s off v ∧
          (off = 0x014 ∨ (0x400 ≤ off.toNat ∧ off.toNat ≤ 0x7FC))) ∨
        (s.wrbusy = true ∧ ¬ ∃ v, stepWrites s 0x01C v ∧ v.getLsbD 9 = true)))

/-- R46–R48, R320: only completion (and reset) changes the result triple. -/
def Obligations.ResultsChangeOnlyAtCompletion : Prop :=
  ∀ (s t : State), step s = .next t → ¬ stepCompletes s → stepResets s = false →
    t.resNum = s.resNum ∧ t.resDen = s.resDen ∧ t.resAux = s.resAux

/-- R49, R311: between resets an entry of TABLE changes only by a host write of it while idle; the
engine never writes TABLE. -/
def Obligations.TableChangesOnlyByIdleWrite : Prop :=
  ∀ (s t : State) (x : Nat), x < 256 → step s = .next t → stepResets s = false →
    t.tableWord x ≠ s.tableWord x →
    s.busy = false ∧ stepWrites s (BitVec.ofNat 12 (0x400 + 4 * x)) (t.tableWord x)

/-! ### The host notation -/

/-- R109: the host's four statements, each one bus access or one host-local step, with the whole next
state of each; a program that has ended does nothing more (R333). The spec fixes no moment for the
host's turn: that it is the host's turn, by the schedule or with none left and no command in flight, is
log 1 and log 2. A label is a position, an unassigned variable a free value, and the end of the statements
the end of the program (log 14). A misaligned `rd` while rst_n is low still gets its bus error (log 9). -/
def Obligations.HostStatementsAct : Prop :=
  ∀ (s : State) (ts : List Turn),
    (s.schedule = .host :: ts ∨ (s.schedule = [] ∧ ts = [] ∧ s.busy = false)) →
    (∀ off v, s.host.current = some (.wr off v) →
      step s = .next { (s.withSchedule ts).access (writeTransfer off v) with
        host := { s.host with pc := s.host.pc + 1 } }) ∧
    (∀ off var v, s.host.current = some (.rd off var) →
      v = (if off.toNat % 4 = 0 ∧ s.rstN = true then s.readReg off else 0) →
      step s = .next { s with
        host := s.host.assign var v,
        bus := if off.toNat % 4 = 0 then .readData v else .readError,
        schedule := ts } ∧
      (s.host.assign var v).var var = v ∧
      (∀ u, u ≠ var → (s.host.assign var v).var u = s.host.var u) ∧
      (s.host.assign var v).pc = s.host.pc + 1 ∧
      (s.host.assign var v).prog = s.host.prog ∧ (s.host.assign var v).halted = s.host.halted) ∧
    (∀ var mask label, s.host.current = some (.bnz var mask label) →
      step s = .next { s with
        host := { s.host with
          pc := if s.host.var var &&& mask ≠ 0 then label else s.host.pc + 1 },
        schedule := ts }) ∧
    (s.host.current = some .halt →
      step s = .next { s with host := { s.host with halted := true }, schedule := ts } ∧
      ({ s.host with halted := true } : HostState).current = none) ∧
    (s.host.current = none → step s = .next { s with schedule := ts })

/-! ### Reset -/

/-- R310, R311, R312: asserting rst_n gives every register its reset value and abandons a command in
flight; a byte of the table memory is what it was or a new draw (which is log 5's free value); host and
schedule are outside the block. -/
def Obligations.ResetAsserted : Prop :=
  ∀ (s : State) (ts : List Turn), s.schedule = .reset false :: ts → s.rstN = true →
    ∃ t, step s = .next t ∧ t.ie = false ∧ t.tableLen = 0 ∧ t.lastCmd = 0 ∧ t.status = 0 ∧
      t.resNum = 0 ∧ t.resDen = 0 ∧ t.resAux = 0 ∧ t.irq = false ∧ t.rstN = false ∧
      t.host = s.host ∧ t.schedule = ts ∧
      ∀ a, Memory.readByte t.epoch t.table a = Memory.readByte s.epoch s.table a ∨
        Memory.readByte t.epoch t.table a = Config.tableDraw (s.epoch + 1) a

/-- R310, R313: while rst_n is low accesses have no effect and reads return 0; when it is released the
registers have their reset values, the engine is idle and accesses are taken again. The model's choices
here, not the spec's: the response to such an access is a plain one without a bus error (log 9), rst_n is
a level and its release is a step of its own (log 10), and the release keeps the table memory and the reset
count, the redraw being the assertion's (log 5, log 10). -/
def Obligations.ResetHeldAndReleased : Prop :=
  ∀ (s : State) (ts : List Turn), s.rstN = false →
    (∀ off v, s.schedule = .access (writeTransfer off v) :: ts → off.toNat % 4 = 0 →
      step s = .next { s with bus := .writeDone, schedule := ts }) ∧
    (∀ off, s.schedule = .access (readTransfer off) :: ts → off.toNat % 4 = 0 →
      step s = .next { s with bus := .readData 0, schedule := ts }) ∧
    (s.schedule = .reset true :: ts →
      ∃ t, step s = .next t ∧ t.rstN = true ∧ t.ie = false ∧ t.tableLen = 0 ∧ t.lastCmd = 0 ∧
        t.status = 0 ∧ t.resNum = 0 ∧ t.resDen = 0 ∧ t.resAux = 0 ∧ t.irq = false ∧
        t.table = s.table ∧ t.epoch = s.epoch ∧ t.host = s.host ∧ t.schedule = ts)

/-- R32, R310, R311: what each register reads as right after reset; a table entry is a draw. -/
def Obligations.ResetReads : Prop :=
  State.reset.readReg 0x000 = 0x53424D45 ∧ State.reset.readReg 0x004 = 0x00010000 ∧
  State.reset.readReg 0x008 = 0x00000008 ∧ State.reset.readReg 0x010 = 0 ∧
  State.reset.readReg 0x014 = 0 ∧ State.reset.readReg 0x018 = 0 ∧ State.reset.readReg 0x01C = 0 ∧
  State.reset.readReg 0x020 = 0 ∧ State.reset.readReg 0x024 = 0 ∧ State.reset.readReg 0x028 = 0 ∧
  ∀ a, Memory.readByte State.reset.epoch State.reset.table a = Config.tableDraw State.reset.epoch a

/-! ### Invariants of every step -/

/-- R49: every step keeps the one form of the table memory. -/
def Obligations.StepKeepsTableForm : Prop :=
  ∀ s t : State, TableForm s → step s = .next t → TableForm t

/-- R50, R41, R43: every step keeps, while a command is in flight, DONE and ERRCODE at 0 and the
snapshot equal to the table and its length. -/
def Obligations.StepKeepsBusyForm : Prop :=
  ∀ s t : State, BusyForm s → step s = .next t → BusyForm t

/-- R138, R280, R47: every step keeps the error codes to 0–4, an error without a value, and an
unacknowledged success with a denominator. -/
def Obligations.StepKeepsOutcomeForm : Prop :=
  ∀ s t : State, OutcomeForm s → step s = .next t → OutcomeForm t

/-- R310: every step keeps the registers at their reset values while rst_n is low. -/
def Obligations.StepKeepsResetForm : Prop :=
  ∀ s t : State, ResetForm s → step s = .next t → ResetForm t

/-- The four invariants hold right after reset. -/
def Obligations.ResetMeetsInvariants : Prop :=
  TableForm State.reset ∧ BusyForm State.reset ∧ OutcomeForm State.reset ∧ ResetForm State.reset

/-! ### Laws of the units -/

/-- R164: the laws of popcount, bitDot and getBit. -/
def Obligations.BitAlgebraLaws : Prop :=
  (∀ a, bitDot a 0 = 0 ∧ bitDot 0 a = 0) ∧
  (∀ a b, bitDot a b = bitDot b a) ∧
  (∀ a x y, bitDot a (x ^^^ y) = bitDot a x ^^^ bitDot a y) ∧
  (∀ j k v, j < 32 → k < 32 → j ≠ k → bitDot (2 ^ j ||| 2 ^ k) v = getBit v j ^^^ getBit v k) ∧
  (∀ x y, popcount (x ^^^ y) + 2 * popcount (x &&& y) = popcount x + popcount y)

/-- R181: the laws of the Walsh value. -/
def Obligations.WalshLaws : Prop :=
  ∀ (n : Nat) (S : Nat → Nat), 1 ≤ n → n ≤ 8 → (∀ x < 2 ^ n, S x < 2 ^ n) →
    (∀ a b, walsh (2 ^ n) S a b = 2 ^ n - 2 *
      (((Finset.range (2 ^ n)).filter (fun x => bitDot b (S x) ≠ bitDot a x)).card : Int)) ∧
    (∀ a b, |walsh (2 ^ n) S a b| ≤ 2 ^ n ∧ 2 ∣ walsh (2 ^ n) S a b) ∧
    walsh (2 ^ n) S 0 0 = 2 ^ n ∧
    (∀ a, a < 2 ^ n → a ≠ 0 → walsh (2 ^ n) S a 0 = 0) ∧
    ∑ b ∈ Finset.range (2 ^ n), walsh (2 ^ n) S 0 b =
      2 ^ n * (((Finset.range (2 ^ n)).filter (fun x => S x = 0)).card : Int)

/-- R211: the laws of the DDT cell. -/
def Obligations.DdtLaws : Prop :=
  ∀ (n : Nat) (S : Nat → Nat), (∀ x < 2 ^ n, S x < 2 ^ n) →
    (∀ dx < 2 ^ n, ∑ dy ∈ Finset.range (2 ^ n), ddtCell (2 ^ n) S dx dy = 2 ^ n) ∧
    ddtCell (2 ^ n) S 0 0 = 2 ^ n ∧ (∀ dy, dy ≠ 0 → ddtCell (2 ^ n) S 0 dy = 0) ∧
    (∀ dx dy, dx < 2 ^ n → dx ≠ 0 → 2 ∣ ddtCell (2 ^ n) S dx dy) ∧
    ∀ dx dy, ddtCell (2 ^ n) S dx dy ≤ 2 ^ n

/-- R258: over one valid table BIC-NL is at least NL. -/
def Obligations.BicnlAtLeastNl : Prop :=
  ∀ (s t t' : State) (n : Nat), ValidTable s.snap n → 2 ≤ n →
    exec .nl s = .next t → exec .bicnl s = .next t' → t.resNum.toNat ≤ t'.resNum.toNat
end

