-- ==== Sys2Proof/Laws/Memory.lean ====
section
/-! SUPPORT. The laws of sparse data by key and of the table memory: a read after a write, other
places alone, and the one form of the list kept (R49, R82). -/

namespace Sys2Proof.Machine

section Assoc

variable {α : Type}

theorem assocGet_assocPut_self (a : Nat) (v : α) (m : List (Nat × α)) :
    assocGet a (assocPut a v m) = some v := by
  induction m with
  | nil => simp [assocPut, assocGet]
  | cons h m ih =>
    obtain ⟨k, w⟩ := h
    simp only [assocPut]
    split
    · simp [assocGet]
    · split
      · simp [assocGet]
      · simp [assocGet, *]

theorem assocGet_assocPut_other {a b : Nat} (hne : b ≠ a) (v : α) (m : List (Nat × α)) :
    assocGet b (assocPut a v m) = assocGet b m := by
  induction m with
  | nil => simp [assocPut, assocGet, hne]
  | cons h m ih =>
    obtain ⟨k, w⟩ := h
    simp only [assocPut]
    split
    · simp [assocGet, hne]
    · split
      · subst k; simp [assocGet, hne]
      · simp [assocGet, ih]

/-- One spec of a read after a write: the written key, or any other. -/
theorem assocGet_assocPut (a b : Nat) (v : α) (m : List (Nat × α)) :
    assocGet b (assocPut a v m) = if b = a then some v else assocGet b m := by
  split
  · subst b; exact assocGet_assocPut_self a v m
  · exact assocGet_assocPut_other ‹_› v m

theorem assocWf_cons {ok : Nat → Bool} {k : Nat} {v : α} {m : List (Nat × α)} :
    assocWf ok ((k, v) :: m) = true ↔
      ok k = true ∧ (∀ p ∈ m.head?, k < p.1) ∧ assocWf ok m = true := by
  cases m with
  | nil => simp [assocWf]
  | cons h m => obtain ⟨k', w⟩ := h; simp [assocWf, and_assoc]

theorem head?_assocPut {a : Nat} {v : α} {m : List (Nat × α)} {p : Nat × α}
    (hp : p ∈ (assocPut a v m).head?) : p.1 = a ∨ p ∈ m.head? := by
  cases m with
  | nil => simp [assocPut] at hp; exact .inl (by rw [← hp])
  | cons h m =>
    obtain ⟨k, w⟩ := h
    simp only [assocPut] at hp
    split at hp
    · exact .inl (by simp at hp; rw [← hp])
    · split at hp
      · exact .inl (by simp at hp; rw [← hp])
      · exact .inr (by simpa using hp)

/-- A write at an admitted key keeps the form. -/
theorem assocPut_wf {ok : Nat → Bool} {a : Nat} (ha : ok a = true) (v : α) {m : List (Nat × α)}
    (h : assocWf ok m = true) : assocWf ok (assocPut a v m) = true := by
  induction m with
  | nil => simpa [assocPut, assocWf] using ha
  | cons e m ih =>
    obtain ⟨k, w⟩ := e
    have hm := assocWf_cons.1 h
    simp only [assocPut]
    split
    · exact assocWf_cons.2 ⟨ha, by simpa using ‹a < k›, h⟩
    · split
      · subst k; exact assocWf_cons.2 ⟨ha, hm.2.1, hm.2.2⟩
      · refine assocWf_cons.2 ⟨hm.1, fun p hp => ?_, ih hm.2.2⟩
        rcases head?_assocPut hp with h | h
        · omega
        · exact hm.2.1 p h

/-- Keeping some of the entries keeps the form. -/
theorem filter_wf {ok : Nat → Bool} (q : Nat × α → Bool) {m : List (Nat × α)}
    (h : assocWf ok m = true) : assocWf ok (m.filter q) = true ∧
      ∀ k, (∀ p ∈ m.head?, k < p.1) → ∀ p ∈ (m.filter q).head?, k < p.1 := by
  induction m with
  | nil => exact ⟨h, fun k hk => hk⟩
  | cons e m ih =>
    obtain ⟨a, v⟩ := e
    have hm := assocWf_cons.1 h
    have hi := ih hm.2.2
    by_cases hq : q (a, v) = true
    · rw [List.filter_cons_of_pos hq]
      exact ⟨assocWf_cons.2 ⟨hm.1, hi.2 a hm.2.1, hi.1⟩, fun k hk p hp => hk p (by simpa using hp)⟩
    · rw [List.filter_cons_of_neg hq]
      refine ⟨hi.1, fun k hk => hi.2 k fun p hp => ?_⟩
      exact lt_trans (hk (a, v) (by simp)) (hm.2.1 p hp)

/-- What is listed after keeping the entries of some keys. -/
theorem assocGet_filter (q : Nat → Bool) (m : List (Nat × α)) (a : Nat) :
    assocGet a (m.filter fun c => q c.1) = if q a then assocGet a m else none := by
  induction m with
  | nil => simp [assocGet]
  | cons e m ih =>
    obtain ⟨k, v⟩ := e
    by_cases hk : a = k
    · subst hk; cases hq : q a <;> simp [hq, assocGet, ih]
    · cases hq : q k <;> simp [hq, assocGet, ih, hk]

end Assoc

/-- R311: the entries that stay keep the memory's form. -/
theorem Memory.kept_wf (epoch : Nat) {m : Memory} (h : m.wf = true) : (m.kept epoch).wf = true :=
  (filter_wf _ h).1

/-- R311: after a reset a byte of an entry that stays is what it was if it was written, and any other
byte is a new draw. -/
theorem Memory.readByte_kept (epoch : Nat) (m : Memory) (a : Nat) :
    Memory.readByte epoch (m.kept epoch) a =
      if Config.tableKept epoch ((a - 0x400) / 4) then Memory.readByte epoch m a
      else Config.tableDraw epoch a := by
  unfold Memory.readByte Memory.kept
  rw [assocGet_filter (fun k => Config.tableKept epoch ((k - 0x400) / 4))]
  split <;> rfl

theorem Memory.wf_nil : Memory.wf [] = true := rfl

theorem inTable_iff {a : Nat} : inTable a = true ↔ 0x400 ≤ a ∧ a < 0x800 := by
  simp [inTable]

/-- The bytes of a written word (R82, R84): its four lanes, and every other byte as before. -/
theorem Memory.readByte_writeWord (epoch a : Nat) (v : Word) (m : Memory) (b : Nat) :
    Memory.readByte epoch (Memory.writeWord a v m) b =
      if b = a + 3 then byteOfWord v 3 else if b = a + 2 then byteOfWord v 2
      else if b = a + 1 then byteOfWord v 1 else if b = a then byteOfWord v 0
      else Memory.readByte epoch m b := by
  simp only [Memory.readByte, Memory.writeWord, assocGet_assocPut]
  split
  · rfl
  · split
    · rfl
    · split
      · rfl
      · split <;> rfl

/-- Lanes taken apart and put together again give the word (R82). -/
theorem wordOfBytes_byteOfWord (v : Word) :
    wordOfBytes (byteOfWord v 0) (byteOfWord v 1) (byteOfWord v 2) (byteOfWord v 3) = v := by
  refine BitVec.eq_of_getLsbD_eq fun i hi => ?_
  simp only [wordOfBytes, byteOfWord, BitVec.getLsbD_append, BitVec.getLsbD_extractLsb']
  have hk : ∀ k, i - 8 * k < 8 → 8 * k ≤ i →
      (decide (i - 8 * k < 8) && v.getLsbD (8 * k + (i - 8 * k))) = v.getLsbD i := by
    intro k h1 h2
    rw [decide_eq_true h1, Bool.true_and, Nat.add_sub_cancel' h2]
  split_ifs with h0 h1 h2
  · exact hk 0 (by omega) (by omega)
  · exact hk 1 (by omega) (by omega)
  · rw [Nat.sub_sub]; exact hk 2 (by omega) (by omega)
  · rw [Nat.sub_sub, Nat.sub_sub]; exact hk 3 (by omega) (by omega)

/-- A word read where a word was written gives it (R49: "A host write stores the 32-bit word
verbatim"). -/
theorem Memory.readWord_writeWord_self (epoch a : Nat) (v : Word) (m : Memory) :
    Memory.readWord epoch (Memory.writeWord a v m) a = v := by
  simp [Memory.readWord, Memory.readByte_writeWord, wordOfBytes_byteOfWord]

/-- A word read four or more bytes away is as before. -/
theorem Memory.readWord_writeWord_other (epoch : Nat) {a b : Nat} (v : Word) (m : Memory)
    (h : b + 4 ≤ a ∨ a + 4 ≤ b) :
    Memory.readWord epoch (Memory.writeWord a v m) b = Memory.readWord epoch m b := by
  have hb : ∀ k < 4, Memory.readByte epoch (Memory.writeWord a v m) (b + k) =
      Memory.readByte epoch m (b + k) := by
    intro k hk
    rw [Memory.readByte_writeWord, if_neg (by omega), if_neg (by omega), if_neg (by omega),
      if_neg (by omega)]
  have h0 := hb 0 (by omega)
  simp only [Nat.add_zero] at h0
  simp only [Memory.readWord, h0, hb 1 (by omega), hb 2 (by omega), hb 3 (by omega)]

/-- A word write into the TABLE range keeps the memory's form. -/
theorem Memory.writeWord_wf {a : Nat} (v : Word) {m : Memory} (h0 : 0x400 ≤ a) (h1 : a + 3 < 0x800)
    (h : Memory.wf m = true) : Memory.wf (Memory.writeWord a v m) = true := by
  refine assocPut_wf (inTable_iff.2 (by omega)) _ (assocPut_wf (inTable_iff.2 (by omega)) _
    (assocPut_wf (inTable_iff.2 (by omega)) _ (assocPut_wf (inTable_iff.2 (by omega)) _ h)))

/-- TABLE[x] for x in 0..255 lies in the TABLE range (R49). -/
theorem tableAddr_inTable {x : Nat} (hx : x < 256) : 0x400 ≤ tableAddr x ∧ tableAddr x + 3 < 0x800 := by
  unfold tableAddr; omega

end Sys2Proof.Machine
end

