-- ==== Sys2Proof/Laws/Reduce.lean ====
section
/-! SUPPORT. The reductions of Reduce.lean as mathematics: sums and cardinalities of finite sets,
greatest and least elements, the lowest index with a property. -/

namespace Sys2Proof.Machine

theorem sumBelow_eq_sum {α : Type} [AddCommMonoid α] (f : Nat → α) (N : Nat) :
    sumBelow f N = ∑ x ∈ Finset.range N, f x := by
  induction N with
  | zero => rfl
  | succ N ih => rw [sumBelow, ih, Finset.sum_range_succ]

theorem countBelow_eq_card (p : Nat → Bool) (N : Nat) :
    countBelow p N = ((Finset.range N).filter (fun x => p x = true)).card := by
  rw [countBelow, sumBelow_eq_sum, Finset.card_filter]

theorem countBelow_le (p : Nat → Bool) (N : Nat) : countBelow p N ≤ N := by
  rw [countBelow_eq_card]
  exact (Finset.card_filter_le _ _).trans (by simp)

theorem le_maxBelow {f : Nat → Nat} {x N : Nat} (hx : x < N) : f x ≤ maxBelow f N := by
  induction N with
  | zero => omega
  | succ N ih =>
    rw [maxBelow]
    rcases Nat.lt_succ_iff_lt_or_eq.1 hx with h | rfl
    · exact (ih h).trans (le_max_left _ _)
    · exact le_max_right _ _

theorem maxBelow_attained (f : Nat → Nat) {N : Nat} (hN : 0 < N) : ∃ x < N, maxBelow f N = f x := by
  induction N with
  | zero => omega
  | succ N ih =>
    rcases Nat.eq_zero_or_pos N with rfl | h
    · exact ⟨0, by omega, by simp [maxBelow]⟩
    · obtain ⟨x, hx, e⟩ := ih h
      rcases le_total (maxBelow f N) (f N) with hle | hle
      · exact ⟨N, by omega, by rw [maxBelow, max_eq_right hle]⟩
      · exact ⟨x, by omega, by rw [maxBelow, max_eq_left hle, e]⟩

theorem minOf_le {l : List Nat} {v : Nat} (hv : v ∈ l) : minOf l ≤ v := by
  induction l with
  | nil => cases hv
  | cons a l ih =>
    cases l with
    | nil => simp at hv; subst hv; exact le_refl _
    | cons b l =>
      rw [minOf]
      rcases List.mem_cons.1 hv with rfl | h
      · exact min_le_left _ _
      · exact (min_le_right _ _).trans (ih h)

theorem minOf_mem {l : List Nat} (h : l ≠ []) : minOf l ∈ l := by
  induction l with
  | nil => exact absurd rfl h
  | cons a l ih =>
    cases l with
    | nil => simp [minOf]
    | cons b l =>
      rw [minOf]
      rcases le_total a (minOf (b :: l)) with hle | hle
      · rw [min_eq_left hle]; exact List.mem_cons_self
      · rw [min_eq_right hle]; exact List.mem_cons_of_mem _ (ih (by simp))

/-- `firstBelow` finds the lowest index with the property. -/
theorem firstBelow_eq_some {p : Nat → Bool} {N x : Nat} :
    firstBelow p N = some x ↔ x < N ∧ p x = true ∧ ∀ y < x, p y = false := by
  induction N generalizing x with
  | zero => simp [firstBelow]
  | succ N ih =>
    rw [firstBelow]
    cases hf : firstBelow p N with
    | some z =>
      have hz := ih.1 hf
      simp only [Option.some.injEq]
      constructor
      · rintro rfl; exact ⟨by omega, hz.2⟩
      · rintro ⟨_, h1, h2⟩
        rcases lt_trichotomy z x with h | h | h
        · rw [h2 z h] at hz; simp at hz
        · exact h
        · rw [hz.2.2 x h] at h1; simp at h1
    | none =>
      have hn : ∀ y < N, p y = false := by
        intro y hy
        by_contra hc
        have : ∃ z, z < N ∧ p z = true := ⟨y, hy, by simpa using hc⟩
        obtain ⟨hz, hp⟩ := Nat.find_spec this
        have := ih.2 ⟨hz, hp, fun w hw => by
          have := Nat.find_min this hw
          simp only [not_and, Bool.not_eq_true] at this
          exact this (by omega)⟩
        rw [hf] at this; cases this
      by_cases hp : p N = true
      · rw [if_pos hp]
        simp only [Option.some.injEq]
        constructor
        · rintro rfl; exact ⟨by omega, hp, hn⟩
        · rintro ⟨h0, h1, h2⟩
          by_contra hne
          rw [hn x (by omega)] at h1; simp at h1
      · rw [if_neg hp]
        constructor
        · intro h; cases h
        · rintro ⟨h0, h1, _⟩
          rcases Nat.lt_succ_iff_lt_or_eq.1 h0 with h | rfl
          · rw [hn x h] at h1; simp at h1
          · exact absurd h1 hp

theorem firstBelow_eq_none {p : Nat → Bool} {N : Nat} :
    firstBelow p N = none ↔ ∀ x < N, p x = false := by
  induction N with
  | zero => simp [firstBelow]
  | succ N ih =>
    rw [firstBelow]
    cases hf : firstBelow p N with
    | some z =>
      have hz := firstBelow_eq_some.1 hf
      simp only [reduceCtorEq, false_iff]
      intro h
      have := h z (by omega)
      rw [this] at hz; simp at hz
    | none =>
      have hn := ih.1 hf
      by_cases hp : p N = true
      · simp only [hp, if_true, reduceCtorEq, false_iff]
        intro h
        rw [h N (by omega)] at hp; cases hp
      · simp only [hp]
        constructor
        · intro _ x hx
          rcases Nat.lt_succ_iff_lt_or_eq.1 hx with h | rfl
          · exact hn x h
          · simpa using hp
        · intro _; rfl

/-- The pairs of R250 are the `(j, k)` with `j < k < n`. -/
theorem mem_bitPairs {n j k : Nat} : (j, k) ∈ bitPairs n ↔ j < k ∧ k < n := by
  simp [bitPairs, List.mem_flatMap]
  tauto

/-- A bit is 0 or 1 (R162). -/
theorem getBit_eq (x i : Nat) : getBit x i = if x.testBit i then 1 else 0 := by
  simp only [getBit, Nat.testBit, Nat.and_one_is_mod, Nat.one_and_eq_mod_two, bne_iff_ne]
  rcases Nat.mod_two_eq_zero_or_one (x >>> i) with h | h <;> simp [h]

theorem getBit_lt_two (x i : Nat) : getBit x i < 2 := by
  rw [getBit_eq]; split <;> omega

theorem bitDot_lt_two (a b : Nat) : bitDot a b < 2 := Nat.mod_lt _ (by omega)

end Sys2Proof.Machine
end

