-- ==== Sys2Proof/Laws/State.lean ====
section
/-! SUPPORT. One lemma per field per named update of State: what each operation of Ops.lean and
Flags.lean leaves in each field. All hold by unfolding; later proofs cite them through simp. -/

namespace Sys2Proof.Machine

variable (s : State)

/-! ### State.accept -/

@[simp] theorem State.accept_ie (w : Word) :
    (s.accept w).ie = s.ie := rfl
@[simp] theorem State.accept_tableLen (w : Word) :
    (s.accept w).tableLen = s.tableLen := rfl
@[simp] theorem State.accept_lastCmd (w : Word) :
    (s.accept w).lastCmd = w := rfl
@[simp] theorem State.accept_busy (w : Word) :
    (s.accept w).busy = true := rfl
@[simp] theorem State.accept_done (w : Word) :
    (s.accept w).done = false := rfl
@[simp] theorem State.accept_errcode (w : Word) :
    (s.accept w).errcode = 0 := rfl
@[simp] theorem State.accept_overrun (w : Word) :
    (s.accept w).overrun = s.overrun := rfl
@[simp] theorem State.accept_wrbusy (w : Word) :
    (s.accept w).wrbusy = s.wrbusy := rfl
@[simp] theorem State.accept_resNum (w : Word) :
    (s.accept w).resNum = s.resNum := rfl
@[simp] theorem State.accept_resDen (w : Word) :
    (s.accept w).resDen = s.resDen := rfl
@[simp] theorem State.accept_resAux (w : Word) :
    (s.accept w).resAux = s.resAux := rfl
@[simp] theorem State.accept_table (w : Word) :
    (s.accept w).table = s.table := rfl
@[simp] theorem State.accept_snap (w : Word) :
    (s.accept w).snap = { len := s.tableLen, table := s.table, epoch := s.epoch } := rfl
@[simp] theorem State.accept_rstN (w : Word) :
    (s.accept w).rstN = s.rstN := rfl
@[simp] theorem State.accept_bus (w : Word) :
    (s.accept w).bus = s.bus := rfl
@[simp] theorem State.accept_epoch (w : Word) :
    (s.accept w).epoch = s.epoch := rfl
@[simp] theorem State.accept_host (w : Word) :
    (s.accept w).host = s.host := rfl
@[simp] theorem State.accept_schedule (w : Word) :
    (s.accept w).schedule = s.schedule := rfl

/-! ### State.dropCommand -/

@[simp] theorem State.dropCommand_ie :
    (s.dropCommand).ie = s.ie := rfl
@[simp] theorem State.dropCommand_tableLen :
    (s.dropCommand).tableLen = s.tableLen := rfl
@[simp] theorem State.dropCommand_lastCmd :
    (s.dropCommand).lastCmd = s.lastCmd := rfl
@[simp] theorem State.dropCommand_busy :
    (s.dropCommand).busy = s.busy := rfl
@[simp] theorem State.dropCommand_done :
    (s.dropCommand).done = s.done := rfl
@[simp] theorem State.dropCommand_errcode :
    (s.dropCommand).errcode = s.errcode := rfl
@[simp] theorem State.dropCommand_overrun :
    (s.dropCommand).overrun = true := rfl
@[simp] theorem State.dropCommand_wrbusy :
    (s.dropCommand).wrbusy = s.wrbusy := rfl
@[simp] theorem State.dropCommand_resNum :
    (s.dropCommand).resNum = s.resNum := rfl
@[simp] theorem State.dropCommand_resDen :
    (s.dropCommand).resDen = s.resDen := rfl
@[simp] theorem State.dropCommand_resAux :
    (s.dropCommand).resAux = s.resAux := rfl
@[simp] theorem State.dropCommand_table :
    (s.dropCommand).table = s.table := rfl
@[simp] theorem State.dropCommand_snap :
    (s.dropCommand).snap = s.snap := rfl
@[simp] theorem State.dropCommand_rstN :
    (s.dropCommand).rstN = s.rstN := rfl
@[simp] theorem State.dropCommand_bus :
    (s.dropCommand).bus = s.bus := rfl
@[simp] theorem State.dropCommand_epoch :
    (s.dropCommand).epoch = s.epoch := rfl
@[simp] theorem State.dropCommand_host :
    (s.dropCommand).host = s.host := rfl
@[simp] theorem State.dropCommand_schedule :
    (s.dropCommand).schedule = s.schedule := rfl

/-! ### State.dropTableWrite -/

@[simp] theorem State.dropTableWrite_ie :
    (s.dropTableWrite).ie = s.ie := rfl
@[simp] theorem State.dropTableWrite_tableLen :
    (s.dropTableWrite).tableLen = s.tableLen := rfl
@[simp] theorem State.dropTableWrite_lastCmd :
    (s.dropTableWrite).lastCmd = s.lastCmd := rfl
@[simp] theorem State.dropTableWrite_busy :
    (s.dropTableWrite).busy = s.busy := rfl
@[simp] theorem State.dropTableWrite_done :
    (s.dropTableWrite).done = s.done := rfl
@[simp] theorem State.dropTableWrite_errcode :
    (s.dropTableWrite).errcode = s.errcode := rfl
@[simp] theorem State.dropTableWrite_overrun :
    (s.dropTableWrite).overrun = s.overrun := rfl
@[simp] theorem State.dropTableWrite_wrbusy :
    (s.dropTableWrite).wrbusy = true := rfl
@[simp] theorem State.dropTableWrite_resNum :
    (s.dropTableWrite).resNum = s.resNum := rfl
@[simp] theorem State.dropTableWrite_resDen :
    (s.dropTableWrite).resDen = s.resDen := rfl
@[simp] theorem State.dropTableWrite_resAux :
    (s.dropTableWrite).resAux = s.resAux := rfl
@[simp] theorem State.dropTableWrite_table :
    (s.dropTableWrite).table = s.table := rfl
@[simp] theorem State.dropTableWrite_snap :
    (s.dropTableWrite).snap = s.snap := rfl
@[simp] theorem State.dropTableWrite_rstN :
    (s.dropTableWrite).rstN = s.rstN := rfl
@[simp] theorem State.dropTableWrite_bus :
    (s.dropTableWrite).bus = s.bus := rfl
@[simp] theorem State.dropTableWrite_epoch :
    (s.dropTableWrite).epoch = s.epoch := rfl
@[simp] theorem State.dropTableWrite_host :
    (s.dropTableWrite).host = s.host := rfl
@[simp] theorem State.dropTableWrite_schedule :
    (s.dropTableWrite).schedule = s.schedule := rfl

/-! ### State.succeed -/

@[simp] theorem State.succeed_ie (r : Triple) :
    (s.succeed r).ie = s.ie := rfl
@[simp] theorem State.succeed_tableLen (r : Triple) :
    (s.succeed r).tableLen = s.tableLen := rfl
@[simp] theorem State.succeed_lastCmd (r : Triple) :
    (s.succeed r).lastCmd = s.lastCmd := rfl
@[simp] theorem State.succeed_busy (r : Triple) :
    (s.succeed r).busy = false := rfl
@[simp] theorem State.succeed_done (r : Triple) :
    (s.succeed r).done = true := rfl
@[simp] theorem State.succeed_errcode (r : Triple) :
    (s.succeed r).errcode = 0 := rfl
@[simp] theorem State.succeed_overrun (r : Triple) :
    (s.succeed r).overrun = s.overrun := rfl
@[simp] theorem State.succeed_wrbusy (r : Triple) :
    (s.succeed r).wrbusy = s.wrbusy := rfl
@[simp] theorem State.succeed_resNum (r : Triple) :
    (s.succeed r).resNum = r.num := rfl
@[simp] theorem State.succeed_resDen (r : Triple) :
    (s.succeed r).resDen = r.den := rfl
@[simp] theorem State.succeed_resAux (r : Triple) :
    (s.succeed r).resAux = r.aux := rfl
@[simp] theorem State.succeed_table (r : Triple) :
    (s.succeed r).table = s.table := rfl
@[simp] theorem State.succeed_snap (r : Triple) :
    (s.succeed r).snap = s.snap := rfl
@[simp] theorem State.succeed_rstN (r : Triple) :
    (s.succeed r).rstN = s.rstN := rfl
@[simp] theorem State.succeed_bus (r : Triple) :
    (s.succeed r).bus = s.bus := rfl
@[simp] theorem State.succeed_epoch (r : Triple) :
    (s.succeed r).epoch = s.epoch := rfl
@[simp] theorem State.succeed_host (r : Triple) :
    (s.succeed r).host = s.host := rfl
@[simp] theorem State.succeed_schedule (r : Triple) :
    (s.succeed r).schedule = s.schedule := rfl

/-! ### State.fail -/

@[simp] theorem State.fail_ie (e : CmdError) (aux : Word) :
    (s.fail e aux).ie = s.ie := rfl
@[simp] theorem State.fail_tableLen (e : CmdError) (aux : Word) :
    (s.fail e aux).tableLen = s.tableLen := rfl
@[simp] theorem State.fail_lastCmd (e : CmdError) (aux : Word) :
    (s.fail e aux).lastCmd = s.lastCmd := rfl
@[simp] theorem State.fail_busy (e : CmdError) (aux : Word) :
    (s.fail e aux).busy = false := rfl
@[simp] theorem State.fail_done (e : CmdError) (aux : Word) :
    (s.fail e aux).done = true := rfl
@[simp] theorem State.fail_errcode (e : CmdError) (aux : Word) :
    (s.fail e aux).errcode = e.code := rfl
@[simp] theorem State.fail_overrun (e : CmdError) (aux : Word) :
    (s.fail e aux).overrun = s.overrun := rfl
@[simp] theorem State.fail_wrbusy (e : CmdError) (aux : Word) :
    (s.fail e aux).wrbusy = s.wrbusy := rfl
@[simp] theorem State.fail_resNum (e : CmdError) (aux : Word) :
    (s.fail e aux).resNum = 0 := rfl
@[simp] theorem State.fail_resDen (e : CmdError) (aux : Word) :
    (s.fail e aux).resDen = 0 := rfl
@[simp] theorem State.fail_resAux (e : CmdError) (aux : Word) :
    (s.fail e aux).resAux = aux := rfl
@[simp] theorem State.fail_table (e : CmdError) (aux : Word) :
    (s.fail e aux).table = s.table := rfl
@[simp] theorem State.fail_snap (e : CmdError) (aux : Word) :
    (s.fail e aux).snap = s.snap := rfl
@[simp] theorem State.fail_rstN (e : CmdError) (aux : Word) :
    (s.fail e aux).rstN = s.rstN := rfl
@[simp] theorem State.fail_bus (e : CmdError) (aux : Word) :
    (s.fail e aux).bus = s.bus := rfl
@[simp] theorem State.fail_epoch (e : CmdError) (aux : Word) :
    (s.fail e aux).epoch = s.epoch := rfl
@[simp] theorem State.fail_host (e : CmdError) (aux : Word) :
    (s.fail e aux).host = s.host := rfl
@[simp] theorem State.fail_schedule (e : CmdError) (aux : Word) :
    (s.fail e aux).schedule = s.schedule := rfl

/-! ### State.writeStatus -/

@[simp] theorem State.writeStatus_ie (v : Word) :
    (s.writeStatus v).ie = s.ie := rfl
@[simp] theorem State.writeStatus_tableLen (v : Word) :
    (s.writeStatus v).tableLen = s.tableLen := rfl
@[simp] theorem State.writeStatus_lastCmd (v : Word) :
    (s.writeStatus v).lastCmd = s.lastCmd := rfl
@[simp] theorem State.writeStatus_busy (v : Word) :
    (s.writeStatus v).busy = s.busy := rfl
@[simp] theorem State.writeStatus_done (v : Word) :
    (s.writeStatus v).done = (s.done && !v.getLsbD 1) := rfl
@[simp] theorem State.writeStatus_errcode (v : Word) :
    (s.writeStatus v).errcode = s.errcode := rfl
@[simp] theorem State.writeStatus_overrun (v : Word) :
    (s.writeStatus v).overrun = (s.overrun && !v.getLsbD 8) := rfl
@[simp] theorem State.writeStatus_wrbusy (v : Word) :
    (s.writeStatus v).wrbusy = (s.wrbusy && !v.getLsbD 9) := rfl
@[simp] theorem State.writeStatus_resNum (v : Word) :
    (s.writeStatus v).resNum = s.resNum := rfl
@[simp] theorem State.writeStatus_resDen (v : Word) :
    (s.writeStatus v).resDen = s.resDen := rfl
@[simp] theorem State.writeStatus_resAux (v : Word) :
    (s.writeStatus v).resAux = s.resAux := rfl
@[simp] theorem State.writeStatus_table (v : Word) :
    (s.writeStatus v).table = s.table := rfl
@[simp] theorem State.writeStatus_snap (v : Word) :
    (s.writeStatus v).snap = s.snap := rfl
@[simp] theorem State.writeStatus_rstN (v : Word) :
    (s.writeStatus v).rstN = s.rstN := rfl
@[simp] theorem State.writeStatus_bus (v : Word) :
    (s.writeStatus v).bus = s.bus := rfl
@[simp] theorem State.writeStatus_epoch (v : Word) :
    (s.writeStatus v).epoch = s.epoch := rfl
@[simp] theorem State.writeStatus_host (v : Word) :
    (s.writeStatus v).host = s.host := rfl
@[simp] theorem State.writeStatus_schedule (v : Word) :
    (s.writeStatus v).schedule = s.schedule := rfl

/-! ### State.writeCtrl -/

@[simp] theorem State.writeCtrl_ie (v : Word) :
    (s.writeCtrl v).ie = v.getLsbD 0 := rfl
@[simp] theorem State.writeCtrl_tableLen (v : Word) :
    (s.writeCtrl v).tableLen = s.tableLen := rfl
@[simp] theorem State.writeCtrl_lastCmd (v : Word) :
    (s.writeCtrl v).lastCmd = s.lastCmd := rfl
@[simp] theorem State.writeCtrl_busy (v : Word) :
    (s.writeCtrl v).busy = s.busy := rfl
@[simp] theorem State.writeCtrl_done (v : Word) :
    (s.writeCtrl v).done = s.done := rfl
@[simp] theorem State.writeCtrl_errcode (v : Word) :
    (s.writeCtrl v).errcode = s.errcode := rfl
@[simp] theorem State.writeCtrl_overrun (v : Word) :
    (s.writeCtrl v).overrun = s.overrun := rfl
@[simp] theorem State.writeCtrl_wrbusy (v : Word) :
    (s.writeCtrl v).wrbusy = s.wrbusy := rfl
@[simp] theorem State.writeCtrl_resNum (v : Word) :
    (s.writeCtrl v).resNum = s.resNum := rfl
@[simp] theorem State.writeCtrl_resDen (v : Word) :
    (s.writeCtrl v).resDen = s.resDen := rfl
@[simp] theorem State.writeCtrl_resAux (v : Word) :
    (s.writeCtrl v).resAux = s.resAux := rfl
@[simp] theorem State.writeCtrl_table (v : Word) :
    (s.writeCtrl v).table = s.table := rfl
@[simp] theorem State.writeCtrl_snap (v : Word) :
    (s.writeCtrl v).snap = s.snap := rfl
@[simp] theorem State.writeCtrl_rstN (v : Word) :
    (s.writeCtrl v).rstN = s.rstN := rfl
@[simp] theorem State.writeCtrl_bus (v : Word) :
    (s.writeCtrl v).bus = s.bus := rfl
@[simp] theorem State.writeCtrl_epoch (v : Word) :
    (s.writeCtrl v).epoch = s.epoch := rfl
@[simp] theorem State.writeCtrl_host (v : Word) :
    (s.writeCtrl v).host = s.host := rfl
@[simp] theorem State.writeCtrl_schedule (v : Word) :
    (s.writeCtrl v).schedule = s.schedule := rfl

/-! ### State.respond -/

@[simp] theorem State.respond_ie (r : BusResponse) :
    (s.respond r).ie = s.ie := rfl
@[simp] theorem State.respond_tableLen (r : BusResponse) :
    (s.respond r).tableLen = s.tableLen := rfl
@[simp] theorem State.respond_lastCmd (r : BusResponse) :
    (s.respond r).lastCmd = s.lastCmd := rfl
@[simp] theorem State.respond_busy (r : BusResponse) :
    (s.respond r).busy = s.busy := rfl
@[simp] theorem State.respond_done (r : BusResponse) :
    (s.respond r).done = s.done := rfl
@[simp] theorem State.respond_errcode (r : BusResponse) :
    (s.respond r).errcode = s.errcode := rfl
@[simp] theorem State.respond_overrun (r : BusResponse) :
    (s.respond r).overrun = s.overrun := rfl
@[simp] theorem State.respond_wrbusy (r : BusResponse) :
    (s.respond r).wrbusy = s.wrbusy := rfl
@[simp] theorem State.respond_resNum (r : BusResponse) :
    (s.respond r).resNum = s.resNum := rfl
@[simp] theorem State.respond_resDen (r : BusResponse) :
    (s.respond r).resDen = s.resDen := rfl
@[simp] theorem State.respond_resAux (r : BusResponse) :
    (s.respond r).resAux = s.resAux := rfl
@[simp] theorem State.respond_table (r : BusResponse) :
    (s.respond r).table = s.table := rfl
@[simp] theorem State.respond_snap (r : BusResponse) :
    (s.respond r).snap = s.snap := rfl
@[simp] theorem State.respond_rstN (r : BusResponse) :
    (s.respond r).rstN = s.rstN := rfl
@[simp] theorem State.respond_bus (r : BusResponse) :
    (s.respond r).bus = r := rfl
@[simp] theorem State.respond_epoch (r : BusResponse) :
    (s.respond r).epoch = s.epoch := rfl
@[simp] theorem State.respond_host (r : BusResponse) :
    (s.respond r).host = s.host := rfl
@[simp] theorem State.respond_schedule (r : BusResponse) :
    (s.respond r).schedule = s.schedule := rfl

/-! ### State.resetRegisters -/

@[simp] theorem State.resetRegisters_ie :
    (s.resetRegisters).ie = false := rfl
@[simp] theorem State.resetRegisters_tableLen :
    (s.resetRegisters).tableLen = 0 := rfl
@[simp] theorem State.resetRegisters_lastCmd :
    (s.resetRegisters).lastCmd = 0 := rfl
@[simp] theorem State.resetRegisters_busy :
    (s.resetRegisters).busy = false := rfl
@[simp] theorem State.resetRegisters_done :
    (s.resetRegisters).done = false := rfl
@[simp] theorem State.resetRegisters_errcode :
    (s.resetRegisters).errcode = 0 := rfl
@[simp] theorem State.resetRegisters_overrun :
    (s.resetRegisters).overrun = false := rfl
@[simp] theorem State.resetRegisters_wrbusy :
    (s.resetRegisters).wrbusy = false := rfl
@[simp] theorem State.resetRegisters_resNum :
    (s.resetRegisters).resNum = 0 := rfl
@[simp] theorem State.resetRegisters_resDen :
    (s.resetRegisters).resDen = 0 := rfl
@[simp] theorem State.resetRegisters_resAux :
    (s.resetRegisters).resAux = 0 := rfl
@[simp] theorem State.resetRegisters_table :
    (s.resetRegisters).table = s.table := rfl
@[simp] theorem State.resetRegisters_snap :
    (s.resetRegisters).snap = { len := 0, table := [], epoch := 0 } := rfl
@[simp] theorem State.resetRegisters_rstN :
    (s.resetRegisters).rstN = s.rstN := rfl
@[simp] theorem State.resetRegisters_bus :
    (s.resetRegisters).bus = .idle := rfl
@[simp] theorem State.resetRegisters_epoch :
    (s.resetRegisters).epoch = s.epoch := rfl
@[simp] theorem State.resetRegisters_host :
    (s.resetRegisters).host = s.host := rfl
@[simp] theorem State.resetRegisters_schedule :
    (s.resetRegisters).schedule = s.schedule := rfl

/-! ### State.redrawTable -/

@[simp] theorem State.redrawTable_ie :
    (s.redrawTable).ie = s.ie := rfl
@[simp] theorem State.redrawTable_tableLen :
    (s.redrawTable).tableLen = s.tableLen := rfl
@[simp] theorem State.redrawTable_lastCmd :
    (s.redrawTable).lastCmd = s.lastCmd := rfl
@[simp] theorem State.redrawTable_busy :
    (s.redrawTable).busy = s.busy := rfl
@[simp] theorem State.redrawTable_done :
    (s.redrawTable).done = s.done := rfl
@[simp] theorem State.redrawTable_errcode :
    (s.redrawTable).errcode = s.errcode := rfl
@[simp] theorem State.redrawTable_overrun :
    (s.redrawTable).overrun = s.overrun := rfl
@[simp] theorem State.redrawTable_wrbusy :
    (s.redrawTable).wrbusy = s.wrbusy := rfl
@[simp] theorem State.redrawTable_resNum :
    (s.redrawTable).resNum = s.resNum := rfl
@[simp] theorem State.redrawTable_resDen :
    (s.redrawTable).resDen = s.resDen := rfl
@[simp] theorem State.redrawTable_resAux :
    (s.redrawTable).resAux = s.resAux := rfl
@[simp] theorem State.redrawTable_table :
    (s.redrawTable).table = s.table.kept (s.epoch + 1) := rfl
@[simp] theorem State.redrawTable_snap :
    (s.redrawTable).snap = s.snap := rfl
@[simp] theorem State.redrawTable_rstN :
    (s.redrawTable).rstN = s.rstN := rfl
@[simp] theorem State.redrawTable_bus :
    (s.redrawTable).bus = s.bus := rfl
@[simp] theorem State.redrawTable_epoch :
    (s.redrawTable).epoch = s.epoch + 1 := rfl
@[simp] theorem State.redrawTable_host :
    (s.redrawTable).host = s.host := rfl
@[simp] theorem State.redrawTable_schedule :
    (s.redrawTable).schedule = s.schedule := rfl

/-! ### State.withSchedule -/

@[simp] theorem State.withSchedule_ie (ts : List Turn) :
    (s.withSchedule ts).ie = s.ie := rfl
@[simp] theorem State.withSchedule_tableLen (ts : List Turn) :
    (s.withSchedule ts).tableLen = s.tableLen := rfl
@[simp] theorem State.withSchedule_lastCmd (ts : List Turn) :
    (s.withSchedule ts).lastCmd = s.lastCmd := rfl
@[simp] theorem State.withSchedule_busy (ts : List Turn) :
    (s.withSchedule ts).busy = s.busy := rfl
@[simp] theorem State.withSchedule_done (ts : List Turn) :
    (s.withSchedule ts).done = s.done := rfl
@[simp] theorem State.withSchedule_errcode (ts : List Turn) :
    (s.withSchedule ts).errcode = s.errcode := rfl
@[simp] theorem State.withSchedule_overrun (ts : List Turn) :
    (s.withSchedule ts).overrun = s.overrun := rfl
@[simp] theorem State.withSchedule_wrbusy (ts : List Turn) :
    (s.withSchedule ts).wrbusy = s.wrbusy := rfl
@[simp] theorem State.withSchedule_resNum (ts : List Turn) :
    (s.withSchedule ts).resNum = s.resNum := rfl
@[simp] theorem State.withSchedule_resDen (ts : List Turn) :
    (s.withSchedule ts).resDen = s.resDen := rfl
@[simp] theorem State.withSchedule_resAux (ts : List Turn) :
    (s.withSchedule ts).resAux = s.resAux := rfl
@[simp] theorem State.withSchedule_table (ts : List Turn) :
    (s.withSchedule ts).table = s.table := rfl
@[simp] theorem State.withSchedule_snap (ts : List Turn) :
    (s.withSchedule ts).snap = s.snap := rfl
@[simp] theorem State.withSchedule_rstN (ts : List Turn) :
    (s.withSchedule ts).rstN = s.rstN := rfl
@[simp] theorem State.withSchedule_bus (ts : List Turn) :
    (s.withSchedule ts).bus = s.bus := rfl
@[simp] theorem State.withSchedule_epoch (ts : List Turn) :
    (s.withSchedule ts).epoch = s.epoch := rfl
@[simp] theorem State.withSchedule_host (ts : List Turn) :
    (s.withSchedule ts).host = s.host := rfl
@[simp] theorem State.withSchedule_schedule (ts : List Turn) :
    (s.withSchedule ts).schedule = ts := rfl

end Sys2Proof.Machine
end

