-- ==== Sys2Proof/Laws/Ops.lean ====
section
/-! SUPPORT. One lemma for each shared operation that says once all that it can do: the two
completions, the validation of a table command, a bus access, a host statement, a step. -/

namespace Sys2Proof.Machine

/-- R134: `supportedWidth` finds exactly the widths that R134 admits. -/
theorem supportedWidth_eq_some {minWidth len n : Nat} :
    supportedWidth minWidth len = some n ↔ 1 ≤ n ∧ n ≤ 8 ∧ minWidth ≤ n ∧ len = 2 ^ n := by
  constructor
  · intro h
    have hm := List.mem_of_find?_eq_some h
    have hp := List.find?_some h
    simp only [List.mem_filter, List.mem_range, Config.nmax, Bool.and_eq_true,
      decide_eq_true_eq] at hm hp
    omega
  · rintro ⟨h1, h2, h3, rfl⟩
    cases hf : supportedWidth minWidth (2 ^ n) with
    | none =>
      have := List.find?_eq_none.1 hf n (by simp [Config.nmax]; omega)
      simp at this
    | some m =>
      have hp := List.find?_some hf
      simp only [decide_eq_true_eq] at hp
      rw [Nat.pow_right_injective (le_refl 2) hp]

/-- R134: no width is found exactly when the length is not supported. -/
theorem supportedWidth_eq_none {minWidth len : Nat} :
    supportedWidth minWidth len = none ↔
      ¬ ∃ n, 1 ≤ n ∧ n ≤ 8 ∧ minWidth ≤ n ∧ len = 2 ^ n := by
  constructor
  · rintro h ⟨n, hn⟩
    rw [supportedWidth_eq_some.2 hn] at h; cases h
  · intro h
    cases hf : supportedWidth minWidth len with
    | none => rfl
    | some n => exact absurd ⟨n, supportedWidth_eq_some.1 hf⟩ h

/-- R133: everything a table command can come to. -/
theorem tableCommand_cases (minWidth : Nat) (ok : Nat → Bool) (compute : Nat → (Nat → Nat) → Triple)
    (p : Snapshot) :
    (supportedWidth minWidth p.len.toNat = none ∧
      tableCommand minWidth ok compute p = .err .invalidTableLength 0) ∨
    ∃ n, supportedWidth minWidth p.len.toNat = some n ∧
      ((ok n = false ∧ tableCommand minWidth ok compute p = .err .operandOutOfRange 0) ∨
      (ok n = true ∧ ∃ x, x < 2 ^ n ∧ 2 ^ n ≤ p.entry x ∧ (∀ y < x, p.entry y < 2 ^ n) ∧
        tableCommand minWidth ok compute p = .err .valueOutOfRange (zext32 x)) ∨
      (ok n = true ∧ (∀ x < 2 ^ n, p.entry x < 2 ^ n) ∧
        tableCommand minWidth ok compute p = .ok (compute n p.entry))) := by
  unfold tableCommand
  cases hw : supportedWidth minWidth p.len.toNat with
  | none => exact .inl ⟨rfl, rfl⟩
  | some n =>
    refine .inr ⟨n, rfl, ?_⟩
    cases hok : ok n with
    | false => exact .inl ⟨rfl, by simp [hok]⟩
    | true =>
      refine .inr ?_
      cases hf : firstBelow (fun x => decide (2 ^ n ≤ p.entry x)) (2 ^ n) with
      | some x =>
        have h := firstBelow_eq_some.1 hf
        simp only [decide_eq_true_eq, decide_eq_false_iff_not, not_le] at h
        exact .inl ⟨rfl, x, h.1, h.2.1, h.2.2, by simp [hok, hf]⟩
      | none =>
        have h := firstBelow_eq_none.1 hf
        simp only [decide_eq_false_iff_not, not_le] at h
        exact .inr ⟨rfl, h, by simp [hok, hf]⟩

/-- R133: a table command over a valid table with operands in range computes. -/
theorem tableCommand_ok {minWidth n : Nat} {ok : Nat → Bool} {p : Snapshot}
    (compute : Nat → (Nat → Nat) → Triple) (hw : supportedWidth minWidth p.len.toNat = some n)
    (hok : ok n = true) (hv : ∀ x < 2 ^ n, p.entry x < 2 ^ n) :
    tableCommand minWidth ok compute p = .ok (compute n p.entry) := by
  have hf : firstBelow (fun x => decide (2 ^ n ≤ p.entry x)) (2 ^ n) = none := by
    rw [firstBelow_eq_none]; intro x hx; simpa using hv x hx
  simp [tableCommand, hw, hok, hf]

/-- The outcome of each command over a snapshot: `exec(w, N, T)` of R133. -/
def outcome (i : Instr) (p : Snapshot) : CmdResult :=
  match i with
  | .check => tableCommand 1 noOperands computeCheck p
  | .lap => tableCommand 1 noOperands computeLap p
  | .nl => tableCommand 1 noOperands computeNl p
  | .sac => tableCommand 1 noOperands computeSac p
  | .dap => tableCommand 1 noOperands computeDap p
  | .bicsac => tableCommand 2 noOperands computeBicsac p
  | .bicnl => tableCommand 2 noOperands computeBicnl p
  | .walsh a b => tableCommand 1 (twoMasksOk a b) (computeWalsh a.toNat b.toNat) p
  | .ddt dx dy => tableCommand 1 (twoMasksOk dx dy) (computeDdt dx.toNat dy.toNat) p
  | .flip i j => tableCommand 1 (twoBitsOk i j) (computeFlip i.toNat j.toNat) p
  | .biccorr i j k => tableCommand 2 (bitAndPairOk i j k) (computeBiccorr i.toNat j.toNat k.toNat) p
  | .bicnlp j k => tableCommand 2 (bitPairOk j k) (computeBicnlp j.toNat k.toNat) p
  | .popcnt x => .ok (computePopcnt x.toNat)
  | .bitdot a b => .ok (computeBitdot a.toNat b.toNat)
  | .reservedE _ | .reservedF _ => .err .illegalCommand 0

/-- Every command completes, with its outcome over the snapshot (R133, R137, R138). -/
theorem exec_eq_complete (i : Instr) (s : State) :
    exec i s = .next (s.complete (outcome i s.snap)) := by
  cases i <;> rfl

/-- R137, R138: a completion is a success or an error, and nothing else. -/
theorem complete_cases (r : CmdResult) (s : State) :
    (∃ t, r = .ok t ∧ s.complete r = s.succeed t) ∨
      ∃ e aux, r = .err e aux ∧ s.complete r = s.fail e aux := by
  cases r with
  | ok t => exact .inl ⟨t, rfl, rfl⟩
  | err e aux => exact .inr ⟨e, aux, rfl, rfl⟩

/-- R133: the engine's step completes the latched word, whatever it is. -/
theorem completion_eq (s : State) :
    ∃ r, completion s = .next (s.complete r) ∧
      ((∃ i, decode s.lastCmd = .ok i ∧ r = outcome i s.snap) ∨
        (∃ e, decode s.lastCmd = .error e) ∧ r = .err .illegalCommand 0) := by
  unfold completion
  cases h : decode s.lastCmd with
  | ok i => exact ⟨_, exec_eq_complete i s, .inl ⟨i, rfl, rfl⟩⟩
  | error e => exact ⟨_, rfl, .inr ⟨⟨e, rfl⟩, rfl⟩⟩

/-- R83, R85, R310: an access changes nothing but the bus response, or it is a supported write while
rst_n is high and has that write's effect as well. -/
theorem access_cases (t : Transfer) (s : State) :
    (∃ r, s.access t = s.respond r) ∨
      (t.supported = true ∧ t.write = true ∧ s.rstN = true ∧
        s.access t = (s.writeReg t.offset t.data).respond .writeDone) := by
  unfold State.access
  cases hs : t.supported <;> cases hw : t.write <;> cases hr : s.rstN <;>
    first | exact .inl ⟨_, rfl⟩ | exact .inr ⟨rfl, rfl, rfl, rfl⟩

/-- R32–R54: all that a supported register write can do. -/
theorem writeReg_cases (off : Offset) (v : Word) (s : State) :
    s.writeReg off v = s ∨ s.writeReg off v = s.writeCtrl v ∨ s.writeReg off v = s.writeStatus v ∨
    (s.busy = true ∧ s.writeReg off v = s.dropCommand) ∨
    (s.busy = true ∧ s.writeReg off v = s.dropTableWrite) ∨
    (s.busy = false ∧ s.writeReg off v = s.accept v) ∨
    (s.busy = false ∧ s.writeReg off v = { s with tableLen := v }) ∨
    (s.busy = false ∧ ∃ x, registerAt off = .table x ∧
      s.writeReg off v = { s with table := s.table.writeWord (tableAddr x) v }) := by
  unfold State.writeReg
  cases h : registerAt off <;> cases hb : s.busy <;>
    simp [State.issue, State.writeTableLen, State.writeTable, hb]

/-- R32: TABLE's words are those of offsets 0x400–0x7FC. -/
theorem registerAt_table {off : Offset} {x : Nat} (h : registerAt off = .table x) :
    x = (off.toNat - 0x400) / 4 ∧ 0x400 ≤ off.toNat ∧ off.toNat < 0x800 := by
  unfold registerAt at h
  split at h <;> try cases h
  split at h <;> try cases h
  exact ⟨rfl, inTable_iff.1 ‹_›⟩

/-- A table register is one of the 256 entries (R49). -/
theorem registerAt_table_lt {off : Offset} {x : Nat} (h : registerAt off = .table x) : x < 256 := by
  have := registerAt_table h
  omega

/-- R310: the reset pin does nothing, or every register has its reset value afterwards. -/
theorem driveReset_cases (level : Bool) (s : State) :
    (s.rstN = true ∧ level = true ∧ s.driveReset level = s) ∨
    (s.rstN = true ∧ level = false ∧
      s.driveReset level = { s.resetRegisters.redrawTable with rstN := false }) ∨
    (s.rstN = false ∧ s.driveReset level = { s.resetRegisters with rstN := level }) := by
  unfold State.driveReset
  cases hr : s.rstN <;> cases level <;> simp

section HostProgram

variable (h : HostState) (t : Nat) (v : Word)

@[simp] theorem HostState.advance_pc : h.advance.pc = h.pc + 1 := rfl
@[simp] theorem HostState.advance_prog : h.advance.prog = h.prog := rfl
@[simp] theorem HostState.advance_vars : h.advance.vars = h.vars := rfl
@[simp] theorem HostState.advance_halted : h.advance.halted = h.halted := rfl
@[simp] theorem HostState.assign_pc : (h.assign t v).pc = h.pc + 1 := rfl
@[simp] theorem HostState.assign_prog : (h.assign t v).prog = h.prog := rfl
@[simp] theorem HostState.assign_halted : (h.assign t v).halted = h.halted := rfl

/-- R109: an assignment gives its variable the value and leaves every other variable. -/
theorem HostState.var_assign (u : Nat) :
    (h.assign t v).var u = if u = t then v else h.var u := by
  simp only [HostState.var, HostState.assign, assocGet_assocPut]
  split <;> rfl

end HostProgram

/-- R83, R85, R310: all that the read of R12 does is its response: the register's value where the offset
is aligned, 0 while rst_n is low, a bus error where it is misaligned (log 9). -/
theorem access_readTransfer (off : Offset) (s : State) :
    s.access (readTransfer off) = s.respond
      (if off.toNat % 4 = 0 then .readData (if s.rstN then s.readReg off else 0) else .readError) := by
  by_cases h : off.toNat % 4 = 0 <;> simp [State.access, Transfer.supported, readTransfer, h]

/-- R109: a host turn changes only the host, or performs one bus access beside it. -/
theorem hostTurn_cases (s : State) :
    (∃ h, s.hostTurn = { s with host := h }) ∨
      ∃ t h, s.hostTurn = { s.access t with host := h } := by
  unfold State.hostTurn
  cases s.host.current with
  | none => exact .inl ⟨s.host, rfl⟩
  | some c =>
    cases c with
    | wr off v => exact .inr ⟨_, _, rfl⟩
    | rd off t => exact .inr ⟨_, _, rfl⟩
    | bnz t mask l => exact .inl ⟨_, rfl⟩
    | halt => exact .inl ⟨_, rfl⟩

/-- R30, R88: everything one step can do. -/
theorem step_cases (s : State) :
    (nextTurn s = .engine ∧ s.busy = false ∧ step s = .next (s.withSchedule s.schedule.tail)) ∨
    (nextTurn s = .engine ∧ s.busy = true ∧
      step s = completion (s.withSchedule s.schedule.tail)) ∨
    (nextTurn s = .host ∧ step s = .next (s.withSchedule s.schedule.tail).hostTurn) ∨
    (∃ t, nextTurn s = .access t ∧ step s = .next ((s.withSchedule s.schedule.tail).access t)) ∨
    (∃ l, nextTurn s = .reset l ∧ step s = .next ((s.withSchedule s.schedule.tail).driveReset l)) := by
  unfold step oneStep
  cases h : nextTurn s with
  | engine => cases hb : s.busy <;> simp [takeTurn, engineTurn, hb]
  | host => simp [takeTurn]
  | access t => simp [takeTurn]
  | reset l => simp [takeTurn]

end Sys2Proof.Machine
end

