-- ==== Sys2Proof/Laws/PerInstr.lean ====
section
/-! SUPPORT. A statement for every command, made one constructor at a time: the word of a command
carries its row's match under its row's mask (R104, spec/opcode_table.json). -/

namespace Sys2Proof.Laws.RowMatch

/-- The mask of a command's row (R104). -/
def mask : Instr → Word
  | .check | .lap | .nl | .sac | .dap | .bicsac | .bicnl => 0xFFFFFFFF
  | .walsh _ _ | .ddt _ _ | .flip _ _ | .bicnlp _ _ | .bitdot _ _ => 0xFF0000FF
  | .biccorr _ _ _ => 0x000000FF
  | .popcnt _ => 0xFFFF00FF
  | .reservedE _ | .reservedF _ => 0x0000000F

/-- The match of a command's row (R104). -/
def pattern : Instr → Word
  | .check => 0x00000000
  | .lap => 0x00000001
  | .nl => 0x00000002
  | .sac => 0x00000003
  | .dap => 0x00000004
  | .bicsac => 0x00000005
  | .bicnl => 0x00000006
  | .walsh _ _ => 0x00000007
  | .ddt _ _ => 0x00000008
  | .flip _ _ => 0x00000009
  | .biccorr _ _ _ => 0x0000000A
  | .bicnlp _ _ => 0x0000000B
  | .popcnt _ => 0x0000000C
  | .bitdot _ _ => 0x0000000D
  | .reservedE _ => 0x0000000E
  | .reservedF _ => 0x0000000F

/-- `(w & mask) = match` for the command's own word and row. -/
def Statement (i : Instr) : Prop := encode i &&& mask i = pattern i

/-- Masking F3, RSV and OP of a word whose F3 is 0 leaves OP alone (rows with two operands). -/
theorem packWord_and_two (op : BitVec 4) (f1 f2 : Operand) :
    packWord op f1 f2 0 &&& 0xFF0000FF = packWord op 0 0 0 := by
  refine BitVec.eq_of_getLsbD_eq fun i hi => ?_
  simp only [packWord, BitVec.getLsbD_and, BitVec.getLsbD_append]
  interval_cases i <;> simp

/-- Masking RSV and OP leaves OP alone (the row with three operands). -/
theorem packWord_and_three (op : BitVec 4) (f1 f2 f3 : Operand) :
    packWord op f1 f2 f3 &&& 0x000000FF = packWord op 0 0 0 := by
  refine BitVec.eq_of_getLsbD_eq fun i hi => ?_
  simp only [packWord, BitVec.getLsbD_and, BitVec.getLsbD_append]
  interval_cases i <;> simp

/-- Masking F3, F2, RSV and OP of a word with F3 = F2 = 0 leaves OP alone (the row with one operand). -/
theorem packWord_and_one (op : BitVec 4) (f1 : Operand) :
    packWord op f1 0 0 &&& 0xFFFF00FF = packWord op 0 0 0 := by
  refine BitVec.eq_of_getLsbD_eq fun i hi => ?_
  simp only [packWord, BitVec.getLsbD_and, BitVec.getLsbD_append]
  interval_cases i <;> simp

/-- Masking OP of a reserved row's word leaves OP alone. -/
theorem reserved_and (op : BitVec 4) (rest : BitVec 28) :
    (rest ++ op : Word) &&& 0x0000000F = (0 : BitVec 28) ++ op := by
  refine BitVec.eq_of_getLsbD_eq fun i hi => ?_
  simp only [BitVec.getLsbD_and, BitVec.getLsbD_append]
  interval_cases i <;> simp

theorem check : Statement .check := rfl
theorem lap : Statement .lap := rfl
theorem nl : Statement .nl := rfl
theorem sac : Statement .sac := rfl
theorem dap : Statement .dap := rfl
theorem bicsac : Statement .bicsac := rfl
theorem bicnl : Statement .bicnl := rfl
theorem walsh (a b : Operand) : Statement (.walsh a b) := packWord_and_two 7 a b
theorem ddt (dx dy : Operand) : Statement (.ddt dx dy) := packWord_and_two 8 dx dy
theorem flip (i j : Operand) : Statement (.flip i j) := packWord_and_two 9 i j
theorem biccorr (i j k : Operand) : Statement (.biccorr i j k) := packWord_and_three 10 i j k
theorem bicnlp (j k : Operand) : Statement (.bicnlp j k) := packWord_and_two 11 j k
theorem popcnt (x : Operand) : Statement (.popcnt x) := packWord_and_one 12 x
theorem bitdot (a b : Operand) : Statement (.bitdot a b) := packWord_and_two 13 a b
theorem reservedE (rest : BitVec 28) : Statement (.reservedE rest) := reserved_and 14 rest
theorem reservedF (rest : BitVec 28) : Statement (.reservedF rest) := reserved_and 15 rest

end Sys2Proof.Laws.RowMatch
end

