-- ==== Sys2Proof/Laws/Step.lean ====
section
/-! SUPPORT. What a step does to the registers, said once: it performs one effective register write,
or none, or a completion, or a reset; the host, the bus response and the schedule move beside it. -/

namespace Sys2Proof.Machine

open Sys2Proof.Safety

/-- A state whose bus response, host and schedule are replaced: what moves beside the registers. -/
def State.beside (b : BusResponse) (h : HostState) (ts : List Turn) (s : State) : State :=
  { s with bus := b, host := h, schedule := ts }

section Beside

variable (b : BusResponse) (h : HostState) (ts : List Turn) (s : State)

@[simp] theorem State.beside_ie : (s.beside b h ts).ie = s.ie := rfl
@[simp] theorem State.beside_tableLen : (s.beside b h ts).tableLen = s.tableLen := rfl
@[simp] theorem State.beside_lastCmd : (s.beside b h ts).lastCmd = s.lastCmd := rfl
@[simp] theorem State.beside_busy : (s.beside b h ts).busy = s.busy := rfl
@[simp] theorem State.beside_done : (s.beside b h ts).done = s.done := rfl
@[simp] theorem State.beside_errcode : (s.beside b h ts).errcode = s.errcode := rfl
@[simp] theorem State.beside_overrun : (s.beside b h ts).overrun = s.overrun := rfl
@[simp] theorem State.beside_wrbusy : (s.beside b h ts).wrbusy = s.wrbusy := rfl
@[simp] theorem State.beside_resNum : (s.beside b h ts).resNum = s.resNum := rfl
@[simp] theorem State.beside_resDen : (s.beside b h ts).resDen = s.resDen := rfl
@[simp] theorem State.beside_resAux : (s.beside b h ts).resAux = s.resAux := rfl
@[simp] theorem State.beside_table : (s.beside b h ts).table = s.table := rfl
@[simp] theorem State.beside_snap : (s.beside b h ts).snap = s.snap := rfl
@[simp] theorem State.beside_rstN : (s.beside b h ts).rstN = s.rstN := rfl
@[simp] theorem State.beside_bus : (s.beside b h ts).bus = b := rfl
@[simp] theorem State.beside_epoch : (s.beside b h ts).epoch = s.epoch := rfl
@[simp] theorem State.beside_host : (s.beside b h ts).host = h := rfl
@[simp] theorem State.beside_schedule : (s.beside b h ts).schedule = ts := rfl

end Beside

theorem issue_beside (b : BusResponse) (h : HostState) (ts : List Turn) (v : Word) (s : State) :
    (s.beside b h ts).issue v = (s.issue v).beside b h ts := by
  unfold State.issue
  by_cases hb : s.busy = true
  · rw [if_pos hb]; exact if_pos hb
  · rw [if_neg hb]; exact if_neg hb

theorem writeTableLen_beside (b : BusResponse) (h : HostState) (ts : List Turn) (v : Word)
    (s : State) : (s.beside b h ts).writeTableLen v = (s.writeTableLen v).beside b h ts := by
  unfold State.writeTableLen
  by_cases hb : s.busy = true
  · rw [if_pos hb]; exact if_pos hb
  · rw [if_neg hb]; exact if_neg hb

theorem writeTable_beside (b : BusResponse) (h : HostState) (ts : List Turn) (x : Nat) (v : Word)
    (s : State) : (s.beside b h ts).writeTable x v = (s.writeTable x v).beside b h ts := by
  unfold State.writeTable
  by_cases hb : s.busy = true
  · rw [if_pos hb]; exact if_pos hb
  · rw [if_neg hb]; exact if_neg hb

/-- A register write depends on no field that moves beside the registers, and changes none. -/
theorem writeReg_beside (b : BusResponse) (h : HostState) (ts : List Turn) (off : Offset) (v : Word)
    (s : State) : (s.beside b h ts).writeReg off v = (s.writeReg off v).beside b h ts := by
  unfold State.writeReg
  cases registerAt off with
  | tableLen => exact writeTableLen_beside b h ts v s
  | cmd => exact issue_beside b h ts v s
  | table x => exact writeTable_beside b h ts x v s
  | id | version | hwcfg | ctrl | status | resNum | resDen | resAux | reserved => rfl

theorem withSchedule_eq_beside (ts : List Turn) (s : State) :
    s.withSchedule ts = s.beside s.bus s.host ts := rfl

theorem beside_beside (b b' : BusResponse) (h h' : HostState) (ts ts' : List Turn) (s : State) :
    (s.beside b h ts).beside b' h' ts' = s.beside b' h' ts' := rfl

/-- One access: an effective register write, or nothing but a response. -/
theorem access_effect (a : Transfer) (ts : List Turn) (s : State) :
    (s.rstN = true ∧ a.supported = true ∧ a.write = true ∧ ∃ b,
      (s.withSchedule ts).access a = (s.writeReg a.offset a.data).beside b s.host ts) ∨
    (¬ (s.rstN = true ∧ a.supported = true ∧ a.write = true) ∧ ∃ b,
      (s.withSchedule ts).access a = s.beside b s.host ts) := by
  by_cases hc : s.rstN = true ∧ a.supported = true ∧ a.write = true
  · refine .inl ⟨hc.1, hc.2.1, hc.2.2, .writeDone, ?_⟩
    have hw : (s.withSchedule ts).writeReg a.offset a.data =
        (s.writeReg a.offset a.data).beside s.bus s.host ts := writeReg_beside _ _ _ _ _ _
    unfold State.access
    rw [if_pos hc.2.1, if_pos hc.2.2, State.withSchedule_rstN, if_pos hc.1, hw]
    exact beside_beside s.bus .writeDone s.host s.host ts ts _
  · refine .inr ⟨hc, ?_⟩
    unfold State.access
    by_cases hs : a.supported = true
    · by_cases hw : a.write = true
      · have hr : s.rstN = false := by
          cases h : s.rstN with
          | false => rfl
          | true => exact absurd ⟨h, hs, hw⟩ hc
        refine ⟨.writeDone, ?_⟩
        rw [if_pos hs, if_pos hw, State.withSchedule_rstN, hr]
        rfl
      · refine ⟨.readData (if s.rstN then s.readReg a.offset else 0), ?_⟩
        rw [if_pos hs, if_neg hw]
        rfl
    · refine ⟨if a.write then .writeError else .readError, ?_⟩
      rw [if_neg hs]
      rfl

/-- The four shapes of a step's effect on the registers. -/
theorem step_effect (s : State) :
    (∃ off v, stepWrites s off v ∧ stepResets s = false ∧ ¬ stepCompletes s ∧ ∃ b h,
      step s = .next ((s.writeReg off v).beside b h s.schedule.tail)) ∨
    ((∀ off v, ¬ stepWrites s off v) ∧ stepResets s = false ∧ ¬ stepCompletes s ∧ ∃ b h,
      step s = .next (s.beside b h s.schedule.tail)) ∨
    ((∀ off v, ¬ stepWrites s off v) ∧ stepResets s = false ∧ stepCompletes s ∧
      step s = completion (s.withSchedule s.schedule.tail)) ∨
    ((∀ off v, ¬ stepWrites s off v) ∧ stepResets s = true ∧ ¬ stepCompletes s ∧
      ∃ l, nextTurn s = .reset l ∧ step s = .next ((s.withSchedule s.schedule.tail).driveReset l)) := by
  rcases step_cases s with ⟨h1, h2, h3⟩ | ⟨h1, h2, h3⟩ | ⟨h1, h3⟩ | ⟨a, h1, h3⟩ | ⟨l, h1, h3⟩
  · refine .inr (.inl ⟨?_, by simp [stepResets, h1], by simp [stepCompletes, h2], s.bus, s.host, h3⟩)
    rintro off v ⟨_, t, ht, _⟩; simp [stepTransfer, h1] at ht
  · refine .inr (.inr (.inl ⟨?_, by simp [stepResets, h1], ⟨h1, h2⟩, h3⟩))
    rintro off v ⟨_, t, ht, _⟩; simp [stepTransfer, h1] at ht
  · have hres : stepResets s = false := by simp [stepResets, h1]
    have hcomp : ¬ stepCompletes s := by simp [stepCompletes, h1]
    have htr : stepTransfer s = s.host.current.bind stmtTransfer := by simp [stepTransfer, h1]
    have hcur : (s.withSchedule s.schedule.tail).host.current = s.host.current := rfl
    rw [h3]
    unfold State.hostTurn
    rw [hcur]
    cases hc : s.host.current with
    | none =>
      refine .inr (.inl ⟨?_, hres, hcomp, s.bus, s.host, rfl⟩)
      rintro off v ⟨_, t, ht, _⟩; simp [htr, hc] at ht
    | some c =>
      cases c with
      | wr off v =>
        rcases access_effect (writeTransfer off v) s.schedule.tail s with
          ⟨r, sp, w, b, e⟩ | ⟨hn, b, e⟩
        · refine .inl ⟨off, v, ⟨r, writeTransfer off v, by simp [htr, hc, stmtTransfer], sp, w, rfl,
            rfl⟩, hres, hcomp, b, s.host.advance, ?_⟩
          simp only [State.hostStmt, e]; rfl
        · refine .inr (.inl ⟨?_, hres, hcomp, b, s.host.advance, ?_⟩)
          · rintro off' v' ⟨r, t, ht, sp, w, _⟩
            simp only [htr, hc, stmtTransfer, Option.bind_some, Option.some.injEq] at ht
            subst ht; exact hn ⟨r, sp, w⟩
          · simp only [State.hostStmt, e]; rfl
      | rd off t =>
        rcases access_effect (readTransfer off) s.schedule.tail s with
          ⟨r, sp, w, b, e⟩ | ⟨hn, b, e⟩
        · simp [readTransfer] at w
        · refine .inr (.inl ⟨?_, hres, hcomp, b, s.host.assign t (b.prdata.getD 0), ?_⟩)
          · rintro off' v' ⟨r, t, ht, sp, w, _⟩
            simp only [htr, hc, stmtTransfer, Option.bind_some, Option.some.injEq] at ht
            subst ht; exact hn ⟨r, sp, w⟩
          · simp only [State.hostStmt, e]; rfl
      | bnz t m l =>
        refine .inr (.inl ⟨?_, hres, hcomp, s.bus, s.host.branch t m l, rfl⟩)
        rintro off v ⟨_, t, ht, _⟩; simp [htr, hc, stmtTransfer] at ht
      | halt =>
        refine .inr (.inl ⟨?_, hres, hcomp, s.bus, { s.host with halted := true }, rfl⟩)
        rintro off v ⟨_, t, ht, _⟩; simp [htr, hc, stmtTransfer] at ht
  · have hres : stepResets s = false := by simp [stepResets, h1]
    have hcomp : ¬ stepCompletes s := by simp [stepCompletes, h1]
    have htr : stepTransfer s = some a := by simp [stepTransfer, h1]
    rw [h3]
    rcases access_effect a s.schedule.tail s with ⟨r, sp, w, b, e⟩ | ⟨hn, b, e⟩
    · exact .inl ⟨a.offset, a.data, ⟨r, a, htr, sp, w, rfl, rfl⟩, hres, hcomp, b, s.host, by rw [e]⟩
    · refine .inr (.inl ⟨?_, hres, hcomp, b, s.host, by rw [e]⟩)
      rintro off v ⟨r, t, ht, sp, w, _⟩
      rw [htr] at ht; cases ht; exact hn ⟨r, sp, w⟩
  · have hno : ∀ off v, ¬ stepWrites s off v := by
      rintro off v ⟨_, t, ht, _⟩; simp [stepTransfer, h1] at ht
    have hcomp : ¬ stepCompletes s := by simp [stepCompletes, h1]
    cases hr : stepResets s with
    | true => exact .inr (.inr (.inr ⟨hno, rfl, hcomp, l, h1, h3⟩))
    | false =>
      refine .inr (.inl ⟨hno, rfl, hcomp, s.bus, s.host, ?_⟩)
      simp only [stepResets, h1, Bool.not_eq_false', Bool.and_eq_true] at hr
      rw [h3]
      simp only [State.driveReset, State.withSchedule_rstN, hr.1, hr.2]
      rfl

/-- R310: after a step that resets, every register has its reset value. -/
theorem stepResets_registers {s t : State} (hr : stepResets s = true) (h : step s = .next t) :
    t.ie = false ∧ t.tableLen = 0 ∧ t.lastCmd = 0 ∧ t.busy = false ∧ t.done = false ∧
      t.errcode = 0 ∧ t.overrun = false ∧ t.wrbusy = false ∧ t.resNum = 0 ∧ t.resDen = 0 ∧
      t.resAux = 0 ∧ t.snap = { len := 0, table := [], epoch := 0 } := by
  rcases step_effect s with ⟨_, _, _, h1, _⟩ | ⟨_, h1, _⟩ | ⟨_, h1, _⟩ | ⟨_, _, _, l, hl, e⟩
  · rw [hr] at h1; cases h1
  · rw [hr] at h1; cases h1
  · rw [hr] at h1; cases h1
  · rw [e] at h
    simp only [Host.Outcome.next.injEq] at h
    subst h
    simp only [stepResets, hl] at hr
    unfold State.driveReset
    cases h1 : s.rstN <;> cases l <;> simp [h1] at hr ⊢

end Sys2Proof.Machine
end

