-- ==== Sys2Proof/Tests/Slice0.lean ====
section
/-! SUPPORT. Our own tests: the syntax checks refuse ill-formed terms, words written out from R101 decode
to what they stand for, one step of each command gives the vector of 95_test_vectors.md that its
comment names, and every statement's hypotheses are met somewhere. -/

namespace Sys2Proof.Tests

-- one theorem at a time: many kernel evaluations at once would each hold a thread's stack
set_option Elab.async false

open Sys2Proof.Machine Sys2Proof.Safety

/-! ### Well-formedness refuses -/

theorem test_wf_refuses_reserved_e : (Instr.reservedE 0).wf = false := by decide
theorem test_wf_refuses_reserved_f : (Instr.reservedF 5).wf = false := by decide
theorem test_wf_admits_walsh : (Instr.walsh 255 0).wf = true := by decide
theorem test_stmt_wf_refuses_label : HostStmt.wf 3 (.bnz 0 1 3) = false := by decide
theorem test_program_wf_refuses_endless : hostProgramWf [.rd 0x01C 0, .bnz 0 1 0] = false := by decide
theorem test_program_wf_admits_wait :
    hostProgramWf (hostRun 0 0 .check ++ [.halt]) = true := by decide

/-! ### Decoding, the words written out field by field: F3 ++ F2 ++ F1 ++ RSV ++ OP (R101) -/

theorem test_decode_check : decode 0b00000000000000000000000000000000#32 = .ok .check := by decide
theorem test_decode_lap : decode 0b00000000000000000000000000000001#32 = .ok .lap := by decide
theorem test_decode_nl : decode 0b00000000000000000000000000000010#32 = .ok .nl := by decide
theorem test_decode_sac : decode 0b00000000000000000000000000000011#32 = .ok .sac := by decide
theorem test_decode_dap : decode 0b00000000000000000000000000000100#32 = .ok .dap := by decide
theorem test_decode_bicsac : decode 0b00000000000000000000000000000101#32 = .ok .bicsac := by decide
theorem test_decode_bicnl : decode 0b00000000000000000000000000000110#32 = .ok .bicnl := by decide
theorem test_decode_walsh :
    decode 0b00000000010010000000000100000111#32 = .ok (.walsh 1 72) := by decide
theorem test_decode_ddt :
    decode 0b00000000000111110000000100001000#32 = .ok (.ddt 1 31) := by decide
theorem test_decode_flip :
    decode 0b00000000000000100000000100001001#32 = .ok (.flip 1 2) := by decide
theorem test_decode_biccorr :
    decode 0b00000110000001010000001100001010#32 = .ok (.biccorr 3 5 6) := by decide
theorem test_decode_bicnlp :
    decode 0b00000000000001100000011100001011#32 = .ok (.bicnlp 7 6) := by decide
theorem test_decode_popcnt :
    decode 0b00000000000000001010010100001100#32 = .ok (.popcnt 0xA5) := by decide
theorem test_decode_bitdot :
    decode 0b00000000100000001111111100001101#32 = .ok (.bitdot 0xFF 0x80) := by decide
theorem test_decode_reserved_e :
    decode 0b00000000000000000000000000001110#32 = .ok (.reservedE 0) := by decide
theorem test_decode_reserved_f :
    decode 0b10000000000000000000000000001111#32 = .ok (.reservedF 0x8000000) := by decide
/-- V126: RSV = 1 with OP 0. -/
theorem test_decode_refuses_rsv : decode 0x00000010 = .error .reservedBitsSet := by decide
/-- V129, V31, V11: a non-zero field that the command does not use. -/
theorem test_decode_refuses_unused :
    [0x00000101, 0x01000007, 0x0001000C, 0x0100000D, 0x80000000].map decode =
      List.replicate 5 (.error .unusedOperandSet) := by decide
/-- R82: the lanes of a command word, lowest first. -/
theorem test_decode_lanes : decodeBytes [0x07, 0x01, 0x48, 0x00] = .ok (.walsh 1 72) := by decide
theorem test_decode_one_word_only : decodeBytes [0x07, 0x01, 0x48] = .error .notOneWord := by decide
theorem test_decode_table_word : decodeTableWord 32 0x0100000A = some (.biccorr 0 0 1) := by decide

/-! ### Assembling (R108's two examples, and what it refuses) -/

theorem test_assemble_walsh :
    assembleWord ['w', 'a', 'l', 's', 'h', ' ', '1', ',', ' ', '7', '2'] = .ok 0x00480107 := by
  decide +kernel
theorem test_assemble_biccorr :
    assembleWord ['b', 'i', 'c', 'c', 'o', 'r', 'r', ' ', '0', ',', '0', 'x', '0', ',', '1'] =
      .ok 0x0100000A := by decide +kernel
theorem test_assemble_refuses_256 :
    assemble ['p', 'o', 'p', 'c', 'n', 't', ' ', '2', '5', '6'] = .error .operandTooLarge := by
  decide +kernel
theorem test_assemble_refuses_count : assemble ['n', 'l', ' ', '1'] = .error .wrongOperandCount := by
  decide +kernel

/-! ### One step of each command (95_test_vectors.md) -/

/-- TABLE[0..] and TABLE_LEN written while idle, from reset. -/
def loaded (len : Word) (entries : List Word) : State :=
  (entries.zipIdx.foldl (fun s e => s.writeTable e.2 e.1) State.reset).writeTableLen len

/-- TABLE_LEN = 4 and four entries below 256, given by their cells. -/
def fourEntries (v0 v1 v2 v3 : Byte) : State :=
  { State.reset with
    tableLen := 4
    table := [(0x400, v0), (0x401, 0), (0x402, 0), (0x403, 0), (0x404, v1), (0x405, 0), (0x406, 0),
      (0x407, 0), (0x408, v2), (0x409, 0), (0x40A, 0), (0x40B, 0), (0x40C, v3), (0x40D, 0),
      (0x40E, 0), (0x40F, 0)] }

/-- The table AND2 of 95, §0.1. -/
def and2 : State := fourEntries 0 0 0 1

/-- The table ID4 of 95, §0.1. -/
def id4 : State := fourEntries 0 1 2 3

/-- The table XOR4 of 95, §0.1. -/
def xor4 : State := fourEntries 0 1 3 2

/-- The cells are what the four writes give. -/
theorem test_cells_of_writes : and2 = loaded 4 [0, 0, 0, 1] := by decide +kernel

/-- ERRCODE and the result triple after the command word's completion, with BUSY and DONE. -/
def outcomeOf (s : State) (w : Nat) : Option (Nat × Nat × Nat × Nat × Bool × Bool) :=
  match step (s.withFetchWord 32 w) with
  | .next t => some (t.errcode.toNat, t.resNum.toNat, t.resDen.toNat, t.resAux.toNat, t.busy, t.done)
  | .fault _ | .refused _ => none

/-- V111. -/
theorem test_check_and2 : outcomeOf and2 0x00000000 = some (0, 4, 1, 2, false, true) := by
  decide +kernel
/-- V139: TABLE_LEN = 0 after reset. -/
theorem test_check_reset : outcomeOf State.reset 0x00000000 = some (1, 0, 0, 0, false, true) := by
  decide +kernel
/-- V37. -/
theorem test_lap_and2 : outcomeOf and2 0x00000001 = some (0, 4, 4, 0, false, true) := by
  decide +kernel
/-- V123: 0xFFFFFFFF at index 1 and 9 at index 3; the lowest is reported. -/
theorem test_lap_bad_value :
    outcomeOf (loaded 4 [0, 0xFFFFFFFF, 2, 9]) 0x00000001 = some (2, 0, 0, 1, false, true) := by
  decide +kernel
/-- V37. -/
theorem test_nl_and2 : outcomeOf and2 0x00000002 = some (0, 0, 1, 4, false, true) := by decide +kernel
/-- V80. -/
theorem test_sac_xor4 : outcomeOf xor4 0x00000003 = some (0, 12, 16, 0, false, true) := by
  decide +kernel
/-- V77. -/
theorem test_sac_and2 : outcomeOf and2 0x00000003 = some (0, 4, 16, 0, false, true) := by
  decide +kernel
/-- V56: Dmax = 2, attained at dy = 0. -/
theorem test_dap_and2 : outcomeOf and2 0x00000004 = some (0, 2, 4, 0, false, true) := by decide +kernel
/-- V57. -/
theorem test_dap_id4 : outcomeOf id4 0x00000004 = some (0, 4, 4, 0, false, true) := by decide +kernel
/-- V108. -/
theorem test_bicsac_and2 : outcomeOf and2 0x00000005 = some (0, 0, 8, 0, false, true) := by
  decide +kernel
/-- V135: a bit-independence command at n = 1. -/
theorem test_bicsac_one_bit :
    outcomeOf (loaded 2 [0, 1]) 0x00000005 = some (1, 0, 0, 0, false, true) := by decide +kernel
/-- V108: BIC-NL = 1 where NL = 0. -/
theorem test_bicnl_and2 : outcomeOf and2 0x00000006 = some (0, 1, 1, 2, false, true) := by
  decide +kernel
/-- V19: −2 in two's complement. -/
theorem test_walsh_negative :
    outcomeOf and2 0x00010307 = some (0, 0xFFFFFFFE, 4, 0, false, true) := by decide +kernel
/-- V29: a = N. -/
theorem test_walsh_operand : outcomeOf id4 0x00000407 = some (4, 0, 0, 0, false, true) := by
  decide +kernel
/-- V45. -/
theorem test_ddt_and2 : outcomeOf and2 0x00000108 = some (0, 2, 4, 0, false, true) := by decide +kernel
/-- V46: not the cell with dx and dy exchanged, which is 2 at (2, 3)'s row only for dy below 2. -/
theorem test_ddt_zero : outcomeOf and2 0x00020308 = some (0, 0, 4, 0, false, true) := by decide +kernel
/-- V62: output bit 1 never changes. -/
theorem test_flip_output_bit : outcomeOf and2 0x00010009 = some (0, 0, 4, 0, false, true) := by
  decide +kernel
/-- V63: the other order of the same operands. -/
theorem test_flip_input_bit : outcomeOf and2 0x00000109 = some (0, 2, 4, 0, false, true) := by
  decide +kernel
/-- V87. -/
theorem test_biccorr_and2 : outcomeOf and2 0x0100010A = some (0, 0, 4, 2, false, true) := by
  decide +kernel
/-- V92: j = k. -/
theorem test_biccorr_same_bit : outcomeOf id4 0x0101000A = some (4, 0, 0, 0, false, true) := by
  decide +kernel
/-- V97. -/
theorem test_bicnlp_and2 : outcomeOf and2 0x0001000B = some (0, 1, 1, 2, false, true) := by
  decide +kernel
/-- V100: k = n. -/
theorem test_bicnlp_operand : outcomeOf id4 0x0002000B = some (4, 0, 0, 0, false, true) := by
  decide +kernel
/-- V5: TABLE_LEN = 6 and every entry 99, which a table-free command does not look at. -/
theorem test_popcnt_no_check :
    outcomeOf (loaded 6 [99, 99]) 0x0000030C = some (0, 2, 1, 0, false, true) := by decide +kernel
/-- V4, at reset. -/
theorem test_popcnt_max : outcomeOf State.reset 0x0000FF0C = some (0, 8, 1, 0, false, true) := by
  decide +kernel
/-- V8 and V9. -/
theorem test_bitdot_odd : outcomeOf State.reset 0x0080FF0D = some (0, 1, 1, 1, false, true) := by
  decide +kernel
theorem test_bitdot_even : outcomeOf State.reset 0x00030F0D = some (0, 0, 1, 2, false, true) := by
  decide +kernel
/-- V127, V128. -/
theorem test_reserved_e : outcomeOf id4 0x0000000E = some (3, 0, 0, 0, false, true) := by
  decide +kernel
theorem test_reserved_f : outcomeOf id4 0x0000000F = some (3, 0, 0, 0, false, true) := by
  decide +kernel
/-- V132: illegal beats length. -/
theorem test_illegal_first :
    outcomeOf (loaded 6 [0, 1, 2, 3]) 0x00000101 = some (3, 0, 0, 0, false, true) := by decide +kernel
/-- V133: length beats operand. -/
theorem test_length_second :
    outcomeOf (loaded 6 [0, 1, 2, 3]) 0x00000907 = some (1, 0, 0, 0, false, true) := by decide +kernel
/-- V134: operand beats value. -/
theorem test_operand_third :
    outcomeOf (fourEntries 0 9 0 0) 0x00000907 = some (4, 0, 0, 0, false, true) := by decide +kernel

/-! ### Accesses and the lifecycle (95, §2.7) -/

/-- The outcome is a next state. -/
def answersNext : Host.Outcome State Fault Refusal → Bool
  | .next _ => true
  | .fault _ | .refused _ => false

theorem exists_next {o : Host.Outcome State Fault Refusal} (h : answersNext o = true) :
    ∃ t, o = .next t := by
  cases o with
  | next t => exact ⟨t, rfl⟩
  | fault r => cases h
  | refused r => cases h

/-- The state with one transfer scheduled. -/
def scheduled (t : Turn) (s : State) : State := s.withSchedule [t]

/-- A field of the state after one step. -/
def after {α : Type} (s : State) (f : State → α) : Option α :=
  match step s with
  | .next t => some (f t)
  | .fault _ | .refused _ => none

/-- V150: a CMD write while busy. -/
theorem test_overrun :
    after (scheduled (.access (writeTransfer 0x018 1)) (State.reset.accept 3))
      (fun t => (t.status.toNat, t.lastCmd.toNat)) = some (0x101, 3) := by decide +kernel
/-- V156: ERR and ERRCODE survive a write of all ones. -/
theorem test_status_all_ones :
    after (scheduled (.access (writeTransfer 0x01C 0xFFFFFFFF))
      { State.reset with done := true, errcode := 2, overrun := true, wrbusy := true })
      (fun t => t.status.toNat) = some 0x24 := by decide +kernel
/-- V151: a TABLE write while busy. -/
theorem test_table_write_dropped :
    after (scheduled (.access (writeTransfer 0x400 7)) (and2.accept 3))
      (fun t => (t.wrbusy, (t.tableWord 0).toNat)) = some (true, 0) := by decide +kernel
/-- V147: a read at 0x402. -/
theorem test_misaligned_read :
    after (scheduled (.access (readTransfer 0x402)) and2) (fun t => (t.bus.pslverr, t.bus.prdata)) =
      some (true, some 0) := by decide +kernel
/-- V160: irq rises at once when IE is written while DONE = 1. -/
theorem test_irq_enable :
    after (scheduled (.access (writeTransfer 0x010 1)) { State.reset with done := true })
      (fun t => t.irq) = some true := by decide +kernel
/-- V162: reset while busy. -/
theorem test_reset_abandons :
    after (scheduled (.reset false) (and2.accept 3)) (fun t => (t.status, t.lastCmd, t.rstN)) =
      some (0, 0, false) := by decide +kernel

/-! ### Every statement's hypotheses are met -/

/-- A host with one statement to run. -/
def hosting (c : HostStmt) : State :=
  { State.reset with host := { State.reset.host with prog := [c] }, schedule := [.host] }

theorem witness_EncodeOfDecode : decode 0x0001000B = .ok (.bicnlp 0 1) := by decide
theorem witness_StepRunsDecodedCommand :
    (engineMoves (and2.accept 1) = true ∧ (and2.accept 1).busy = true ∧
      decode (and2.accept 1).lastCmd = .ok .lap) ∧
    engineMoves ((and2.accept 1).withSchedule [.engine, .host]) = true := by decide +kernel
theorem witness_EngineIdleChangesNothing :
    (scheduled .engine and2).schedule = [.engine] ∧ (scheduled .engine and2).busy = false := by
  decide +kernel
/-- An illegal word of each kind of R106, and a legal one. -/
theorem witness_IllegalWordCompletesIllegal :
    engineMoves (and2.accept 0x101) = true ∧ (and2.accept 0x101).busy = true ∧
      IllegalWord (and2.accept 0x101).lastCmd ∧ IllegalWord 0x10 ∧ IllegalWord 0xE ∧
      IllegalWord 0xF ∧ IllegalWord 0x01000007 ∧ IllegalWord 0x0001000C ∧ IllegalWord 0x010000F7 ∧
      ¬ IllegalWord (and2.accept 0x00FFFF0D).lastCmd :=
  ⟨by decide +kernel, rfl, by decide, by decide, by decide, by decide, by decide, by decide,
    by decide, by decide⟩
theorem witness_CheckResult : ValidTable (and2.accept 0).snap 2 := by decide +kernel
theorem witness_LapResult : ValidTable (id4.accept 1).snap 2 := by decide +kernel
theorem witness_NlResult : ValidTable (xor4.accept 2).snap 2 := by decide +kernel
theorem witness_WalshResult :
    ValidTable (and2.accept 0x00010307).snap 2 ∧ (3 : Operand).toNat < 2 ^ 2 ∧
      (1 : Operand).toNat < 2 ^ 2 := by decide +kernel
theorem witness_DapResult : ValidTable ({ fourEntries 1 1 0 0 with tableLen := 2 }.accept 4).snap 1 := by decide +kernel
theorem witness_DdtResult :
    ValidTable (and2.accept 0x00000108).snap 2 ∧ (1 : Operand).toNat < 2 ^ 2 ∧
      (0 : Operand).toNat < 2 ^ 2 := by decide +kernel
theorem witness_SacResult : ValidTable (id4.accept 3).snap 2 := by decide +kernel
theorem witness_FlipResult :
    ValidTable (and2.accept 0x00000109).snap 2 ∧ (1 : Operand).toNat < 2 ∧ (0 : Operand).toNat < 2 := by
  decide +kernel
theorem witness_BiccorrResult :
    ValidTable (and2.accept 0x0100010A).snap 2 ∧ (1 : Operand).toNat < 2 ∧ (0 : Operand).toNat < 2 ∧
      (1 : Operand).toNat < 2 ∧ (0 : Operand) ≠ 1 := by decide +kernel
theorem witness_BicsacResult : ValidTable (and2.accept 5).snap 2 ∧ 2 ≤ 2 := by decide +kernel
theorem witness_BicnlpResult :
    ValidTable (and2.accept 0x0001000B).snap 2 ∧ (0 : Operand).toNat < 2 ∧ (1 : Operand).toNat < 2 ∧
      (0 : Operand) ≠ 1 := by decide +kernel
theorem witness_BicnlResult : ValidTable (and2.accept 6).snap 2 ∧ 2 ≤ 2 := by decide +kernel

theorem not_pow_six (n : Nat) (h1 : n ≤ 8) : 6 ≠ 2 ^ n := by interval_cases n <;> decide

theorem witness_UnsupportedLengthFails :
    isTableCommand .lap = true ∧ ¬ Supported ((loaded 6 [0, 1]).accept 1).snap.len.toNat .lap := by
  refine ⟨rfl, ?_⟩
  rintro ⟨n, _, h, _, e⟩
  exact not_pow_six n h e
theorem witness_OperandOutOfRangeFails :
    isTableCommand (.walsh 9 0) = true ∧ HasWidth (and2.accept 0x00000907).snap 2 ∧
      minimumWidth (.walsh 9 0) ≤ 2 ∧ ¬ OperandsInRange (.walsh 9 0) 2 :=
  ⟨rfl, by decide +kernel, by decide, fun h => absurd h.1 (by decide)⟩
theorem witness_LowestBadEntryFails :
    isTableCommand .sac = true ∧ HasWidth ((fourEntries 0 1 2 4).accept 3).snap 2 ∧
      minimumWidth .sac ≤ 2 ∧ OperandsInRange .sac 2 ∧ 3 < 2 ^ 2 ∧
      2 ^ 2 ≤ ((fourEntries 0 1 2 4).accept 3).snap.entry 3 ∧
      ∀ y < 3, ((fourEntries 0 1 2 4).accept 3).snap.entry y < 2 ^ 2 :=
  ⟨rfl, by decide +kernel, by decide, trivial, by decide, by decide +kernel, by decide +kernel⟩
theorem witness_FirstErrorIsReported :
    engineMoves (and2.accept 0x907) = true ∧ (and2.accept 0x907).busy = true ∧
      ∃ t, step (and2.accept 0x907) = .next t :=
  ⟨by decide +kernel, rfl, exists_next (by decide +kernel)⟩
theorem witness_CompletionFrame : ∃ t, exec (.popcnt 3) and2 = .next t :=
  exists_next (by decide +kernel)
/-- ID4, and a state with an entry 9 at index 4 and other registers, which differ beyond N only. -/
def id4Beyond : State := { id4.writeTable 4 9 with ie := true, resNum := 7 }
theorem witness_OutcomeDependsOnlyOnSnapshot :
    (id4.accept 1).snap.len = (id4Beyond.accept 7).snap.len ∧
      (∀ x < (id4.accept 1).snap.len.toNat, x < 256 →
        (id4.accept 1).snap.entry x = (id4Beyond.accept 7).snap.entry x) ∧
      (∃ t, exec .lap (id4.accept 1) = .next t) ∧ ∃ t, exec .lap (id4Beyond.accept 7) = .next t :=
  ⟨by decide +kernel, by decide +kernel, exists_next (by decide +kernel),
    exists_next (by decide +kernel)⟩
theorem witness_CommandAccepted :
    (scheduled (.access (writeTransfer 0x018 0x3)) and2).schedule =
        [.access (writeTransfer 0x018 0x3)] ∧
      (scheduled (.access (writeTransfer 0x018 0x3)) and2).rstN = true ∧
      (scheduled (.access (writeTransfer 0x018 0x3)) and2).busy = false := by decide +kernel
theorem witness_CommandDropped :
    (scheduled (.access (writeTransfer 0x018 0x3)) (and2.accept 1)).schedule =
        [.access (writeTransfer 0x018 0x3)] ∧
      (scheduled (.access (writeTransfer 0x018 0x3)) (and2.accept 1)).rstN = true ∧
      (scheduled (.access (writeTransfer 0x018 0x3)) (and2.accept 1)).busy = true := by
  decide +kernel
theorem witness_TableLenHoldsAnyValue :
    (scheduled (.access (writeTransfer 0x014 0xDEADBEEF)) and2).schedule =
        [.access (writeTransfer 0x014 0xDEADBEEF)] ∧
      (scheduled (.access (writeTransfer 0x014 0xDEADBEEF)) and2).rstN = true ∧
      (scheduled (.access (writeTransfer 0x014 0xDEADBEEF)) and2).busy = false := by decide +kernel
/-- The first and the last entry. -/
theorem witness_TableWriteStoresVerbatim :
    ∀ x ∈ [0, 255], x < 256 ∧
      (scheduled (.access (writeTransfer (BitVec.ofNat 12 (0x400 + 4 * x)) 7)) and2).schedule =
        [.access (writeTransfer (BitVec.ofNat 12 (0x400 + 4 * x)) 7)] ∧
      (scheduled (.access (writeTransfer (BitVec.ofNat 12 (0x400 + 4 * x)) 7)) and2).rstN = true ∧
      (scheduled (.access (writeTransfer (BitVec.ofNat 12 (0x400 + 4 * x)) 7)) and2).busy = false := by
  decide +kernel
/-- TABLE_LEN, and the first and the last entry of TABLE. -/
theorem witness_TableWriteDroppedWhileBusy :
    ∀ off ∈ ([0x014, 0x400, 0x7FC] : List Offset),
      (scheduled (.access (writeTransfer off 7)) (and2.accept 1)).schedule =
        [.access (writeTransfer off 7)] ∧
      (scheduled (.access (writeTransfer off 7)) (and2.accept 1)).rstN = true ∧
      (scheduled (.access (writeTransfer off 7)) (and2.accept 1)).busy = true ∧
      off.toNat % 4 = 0 ∧ (off = 0x014 ∨ (0x400 ≤ off.toNat ∧ off.toNat ≤ 0x7FC)) := by
  exact fun off h => ⟨rfl, rfl, rfl, by fin_cases h <;> decide⟩
theorem witness_CtrlWriteSetsEnable :
    (scheduled (.access (writeTransfer 0x010 0xFFFFFFFF)) (and2.accept 1)).schedule =
        [.access (writeTransfer 0x010 0xFFFFFFFF)] ∧
      (scheduled (.access (writeTransfer 0x010 0xFFFFFFFF)) (and2.accept 1)).rstN = true := by
  decide +kernel
theorem witness_StatusFieldsAndClears :
    (scheduled (.access (writeTransfer 0x01C 0x302)) and2).schedule =
        [.access (writeTransfer 0x01C 0x302)] ∧
      (scheduled (.access (writeTransfer 0x01C 0x302)) and2).rstN = true := by decide +kernel
/-- Every register, the ends of TABLE, and the ends of each reserved range. -/
theorem witness_RegisterReads :
    ∀ off ∈ ([0x000, 0x004, 0x008, 0x00C, 0x010, 0x014, 0x018, 0x01C, 0x020, 0x024, 0x028, 0x02C,
        0x3FC, 0x400, 0x7FC, 0x800, 0xFFC] : List Offset),
      (scheduled (.access (readTransfer off)) and2).schedule = [.access (readTransfer off)] ∧
      (scheduled (.access (readTransfer off)) and2).rstN = true ∧ off.toNat % 4 = 0 := by
  exact fun off h => ⟨rfl, rfl, by fin_cases h <;> decide⟩
theorem witness_ReadOnlyWritesIgnored :
    ∀ off ∈ ([0x000, 0x00C, 0x020, 0x3FC, 0x800, 0xFFC] : List Offset),
      (scheduled (.access (writeTransfer off 5)) and2).schedule = [.access (writeTransfer off 5)] ∧
      off.toNat % 4 = 0 ∧
      (off.toNat ≤ 0x00C ∨ (0x020 ≤ off.toNat ∧ off.toNat ≤ 0x3FC) ∨ 0x800 ≤ off.toNat) := by
  exact fun off h => ⟨rfl, by fin_cases h <;> decide⟩
/-- V146, V147 and a burst. -/
theorem witness_BusErrorHasNoEffect :
    ∀ a ∈ [{ writeTransfer 0x014 0 with bytes := 2 }, readTransfer 0x402,
        { readTransfer 0x400 with burst := true }],
      (scheduled (.access a) and2).schedule = [.access a] ∧
      (a.bytes ≠ 4 ∨ a.burst = true ∨ a.offset.toNat % 4 ≠ 0) := by decide +kernel
theorem witness_IrqFollowsDoneAndEnable : ∃ t, exec .check and2 = .next t :=
  exists_next (by decide +kernel)

/-- A state whose step is a CMD write taken. -/
theorem witness_step_accepts :
    (∃ t, step (scheduled (.access (writeTransfer 0x018 0x3)) State.reset) = .next t) ∧
      stepWrites (scheduled (.access (writeTransfer 0x018 0x3)) State.reset) 0x018 0x3 :=
  ⟨exists_next (by decide +kernel), rfl, writeTransfer 0x018 0x3, rfl, by decide, rfl, rfl, rfl⟩
/-- A state whose step is a completion. -/
theorem witness_step_completes :
    (∃ t, step (State.reset.accept 0x0000030C) = .next t) ∧
      stepCompletes (State.reset.accept 0x0000030C) :=
  ⟨exists_next (by decide +kernel), rfl, rfl⟩
/-- A state whose step resets. -/
theorem witness_step_resets :
    (∃ t, step (scheduled (.reset false) and2) = .next t) ∧
      stepResets (scheduled (.reset false) and2) = true :=
  ⟨exists_next (by decide +kernel), by decide +kernel⟩
theorem witness_BusyChangesOnly : ∃ t, step (and2.withSchedule [.engine]) = .next t :=
  exists_next (by decide +kernel)
theorem witness_DoneChangesOnly : ∃ t, step (scheduled .host and2) = .next t :=
  exists_next (by decide +kernel)
/-- An acknowledgement after an error. -/
theorem witness_ErrcodeChangesOnly :
    (∃ t, step (scheduled (.access (writeTransfer 0x01C 2)) { and2 with errcode := 2 }) = .next t) ∧
      ¬ stepCompletes (scheduled (.access (writeTransfer 0x01C 2)) { and2 with errcode := 2 }) ∧
      stepResets (scheduled (.access (writeTransfer 0x01C 2)) { and2 with errcode := 2 }) = false :=
  ⟨exists_next (by decide +kernel), by decide +kernel, by decide +kernel⟩
theorem witness_OverrunChangesOnly :
    ∃ t, step (scheduled (.access (writeTransfer 0x018 1)) (and2.accept 3)) = .next t :=
  exists_next (by decide +kernel)
theorem witness_WrbusyChangesOnly :
    ∃ t, step (scheduled (.access (writeTransfer 0x7FC 1)) (and2.accept 3)) = .next t :=
  exists_next (by decide +kernel)
theorem witness_ResultsChangeOnlyAtCompletion :
    (∃ t, step (scheduled (.access (writeTransfer 0x020 1)) (and2.accept 3)) = .next t) ∧
      ¬ stepCompletes (scheduled (.access (writeTransfer 0x020 1)) (and2.accept 3)) ∧
      stepResets (scheduled (.access (writeTransfer 0x020 1)) (and2.accept 3)) = false :=
  ⟨exists_next (by decide +kernel), by decide +kernel, by decide +kernel⟩
/-- The table word the step writes is not the one it had. -/
theorem witness_TableChangesOnlyByIdleWrite :
    0 < 256 ∧ stepResets (scheduled (.access (writeTransfer 0x400 7)) and2) = false ∧
      after (scheduled (.access (writeTransfer 0x400 7)) and2)
        (fun t => decide (t.tableWord 0 ≠ and2.tableWord 0)) = some true := by decide +kernel
/-- Each statement, `rd` aligned, misaligned and in reset, and a program that is halted or at its end. -/
theorem witness_HostStatementsAct :
    (hosting (.wr 0x014 4)).host.current = some (.wr 0x014 4) ∧
    ((hosting (.rd 0x01C 0)).host.current = some (.rd 0x01C 0) ∧ (hosting (.rd 0x01C 0)).rstN = true) ∧
    (hosting (.rd 0x01D 0)).host.current = some (.rd 0x01D 0) ∧
    ({ hosting (.rd 0x01C 0) with rstN := false } : State).host.current = some (.rd 0x01C 0) ∧
    (hosting (.bnz 0 1 0)).host.current = some (.bnz 0 1 0) ∧
    ((hosting .halt).host.current = some .halt ∧ (hosting .halt).schedule = [.host]) ∧
    State.reset.host.current = none ∧ State.reset.schedule = [] ∧ State.reset.busy = false := by
  decide +kernel
/-- R109: `rd` reads ID into its variable and goes on, in a program that stays and is not halted. -/
theorem test_host_rd :
    after (hosting (.rd 0x000 5)) (fun t => (t.host.var 5, t.host.pc, t.host.prog, t.host.halted)) =
      some (0x53424D45, 1, [.rd 0x000 5], false) := by decide +kernel
/-- R109: `halt` ends the program and leaves its position. -/
theorem test_host_halt :
    after (hosting .halt) (fun t => (t.host.halted, t.host.pc, t.host.vars)) = some (true, 0, []) := by
  decide +kernel
theorem witness_ResetAsserted :
    (scheduled (.reset false) (and2.accept 3)).schedule = [.reset false] ∧
      (scheduled (.reset false) (and2.accept 3)).rstN = true := by decide +kernel
/-- The block held in reset. -/
def held : State := { State.reset with rstN := false }
theorem witness_ResetHeldAndReleased :
    held.rstN = false ∧
    ((scheduled (.access (writeTransfer 0x018 3)) held).schedule =
        [.access (writeTransfer 0x018 3)] ∧ (0x018 : Offset).toNat % 4 = 0) ∧
    (scheduled (.access (readTransfer 0x000)) held).schedule = [.access (readTransfer 0x000)] ∧
    (scheduled (.reset true) held).schedule = [.reset true] := by decide +kernel
theorem witness_StepKeepsTableForm :
    TableForm (scheduled (.access (writeTransfer 0x400 7)) and2) ∧
      ∃ t, step (scheduled (.access (writeTransfer 0x400 7)) and2) = .next t :=
  ⟨⟨by decide +kernel, by decide +kernel⟩, exists_next (by decide +kernel)⟩
theorem witness_StepKeepsBusyForm :
    BusyForm (scheduled (.access (writeTransfer 0x400 7)) (and2.accept 1)) ∧
      ∃ t, step (scheduled (.access (writeTransfer 0x400 7)) (and2.accept 1)) = .next t :=
  ⟨fun _ => ⟨rfl, rfl, rfl⟩, exists_next (by decide +kernel)⟩
theorem witness_StepKeepsOutcomeForm :
    OutcomeForm (State.reset.accept 1) ∧ ∃ t, step (State.reset.accept 1) = .next t :=
  ⟨⟨by decide, fun h => absurd rfl h, fun h => absurd rfl h, fun h => absurd h (by decide),
    fun h => Bool.noConfusion h⟩, exists_next (by decide +kernel)⟩
theorem witness_StepKeepsResetForm :
    ResetForm (scheduled (.access (writeTransfer 0x014 3)) held) ∧
      ∃ t, step (scheduled (.access (writeTransfer 0x014 3)) held) = .next t :=
  ⟨fun _ => by decide, exists_next (by decide +kernel)⟩
theorem witness_BitAlgebraLaws : (0 : Nat) < 32 ∧ (31 : Nat) < 32 ∧ (0 : Nat) ≠ 31 := by decide
theorem witness_WalshLaws : 1 ≤ 1 ∧ 1 ≤ 8 ∧ ∀ x < 2 ^ 1, (fun x : Nat => x) x < 2 ^ 1 := by decide
theorem witness_DdtLaws : ∀ x < 2 ^ 1, (fun x : Nat => x) x < 2 ^ 1 := by decide
theorem witness_BicnlAtLeastNl :
    ValidTable (and2.accept 6).snap 2 ∧ 2 ≤ 2 ∧ (∃ t, exec .nl (and2.accept 6) = .next t) ∧
      ∃ t, exec .bicnl (and2.accept 6) = .next t :=
  ⟨by decide +kernel, le_refl 2, exists_next (by decide +kernel), exists_next (by decide +kernel)⟩

end Sys2Proof.Tests
end

section
/-! The register window by offset (R32): which offset each register stands at, what a write leaves in
each field, what a read returns. -/

namespace Sys2Proof.Machine

/-- R32: the offset at which a register stands; the reserved offsets are no register's. -/
def Register.address : Register → Option Nat
  | .id => some 0x000
  | .version => some 0x004
  | .hwcfg => some 0x008
  | .ctrl => some 0x010
  | .tableLen => some 0x014
  | .cmd => some 0x018
  | .status => some 0x01C
  | .resNum => some 0x020
  | .resDen => some 0x024
  | .resAux => some 0x028
  | .table x => some (tableAddr x)
  | .reserved => none

/-- R32: an aligned offset is the address of the register found there. -/
theorem registerAt_address {off : Offset} {r : Register} {a : Nat} (ha : off.toNat % 4 = 0)
    (h : registerAt off = r) (hr : r.address = some a) : off.toNat = a := by
  by_cases ht : ∃ x, r = .table x
  · obtain ⟨x, rfl⟩ := ht
    obtain ⟨hx, hlo, _⟩ := registerAt_table h
    simp only [Register.address, tableAddr, Option.some.injEq] at hr
    omega
  · unfold registerAt at h
    split at h
    case h_11 =>
      split at h
      · exact absurd ⟨_, h.symm⟩ ht
      · subst h; cases hr
    all_goals
      subst h
      simp only [Register.address, Option.some.injEq] at hr
      omega

/-- From 0x02C on the window holds TABLE and nothing else (R32, R54). -/
theorem registerAt_of_le {off : Offset} (h : 0x02C ≤ off.toNat) :
    registerAt off = if inTable off.toNat then .table ((off.toNat - 0x400) / 4) else .reserved := by
  unfold registerAt
  split
  case h_11 => rfl
  all_goals omega

theorem registerAt_eq_cmd {off : Offset} (ha : off.toNat % 4 = 0) :
    registerAt off = .cmd ↔ off = 0x018 :=
  ⟨fun h => BitVec.eq_of_toNat_eq (registerAt_address ha h rfl), by rintro rfl; rfl⟩

theorem registerAt_eq_status {off : Offset} (ha : off.toNat % 4 = 0) :
    registerAt off = .status ↔ off = 0x01C :=
  ⟨fun h => BitVec.eq_of_toNat_eq (registerAt_address ha h rfl), by rintro rfl; rfl⟩

theorem registerAt_eq_tableLen {off : Offset} (ha : off.toNat % 4 = 0) :
    registerAt off = .tableLen ↔ off = 0x014 :=
  ⟨fun h => BitVec.eq_of_toNat_eq (registerAt_address ha h rfl), by rintro rfl; rfl⟩

/-- R49: the offset of an entry does not wrap in the window's 12 bits. -/
theorem toNat_entryOffset {x : Nat} (hx : x < 256) :
    (BitVec.ofNat 12 (0x400 + 4 * x)).toNat = 0x400 + 4 * x := by
  rw [BitVec.toNat_ofNat]; omega

/-- R49: the offset of TABLE[x], as R49's formula and as the window's 12-bit offset. -/
theorem registerAt_eq_table {off : Offset} {x : Nat} (ha : off.toNat % 4 = 0) :
    registerAt off = .table x ↔ x < 256 ∧ off = BitVec.ofNat 12 (0x400 + 4 * x) := by
  constructor
  · intro h
    have hx := registerAt_table_lt h
    have hoff : off.toNat = 0x400 + 4 * x := registerAt_address ha h rfl
    exact ⟨hx, BitVec.eq_of_toNat_eq (hoff.trans (toNat_entryOffset hx).symm)⟩
  · rintro ⟨hx, rfl⟩
    have hoff := toNat_entryOffset hx
    rw [registerAt_of_le (by omega), hoff, if_pos (inTable_iff.2 (by omega)),
      Nat.add_sub_cancel_left, Nat.mul_div_cancel_left x (by omega)]

/-- The TABLE range in offsets (R49): 0x400 to 0x7FC. -/
theorem exists_registerAt_eq_table {off : Offset} (ha : off.toNat % 4 = 0) :
    (∃ x, registerAt off = .table x) ↔ 0x400 ≤ off.toNat ∧ off.toNat ≤ 0x7FC := by
  constructor
  · rintro ⟨x, h⟩
    obtain ⟨_, hlo, hhi⟩ := registerAt_table h
    omega
  · intro h
    exact ⟨_, by rw [registerAt_of_le (by omega), if_pos (inTable_iff.2 (by omega))]⟩

/-! ### What a register write does -/

section Writes

variable (s : State) (v : Word)

theorem writeReg_ctrl : s.writeReg 0x010 v = s.writeCtrl v := rfl
theorem writeReg_tableLen : s.writeReg 0x014 v = s.writeTableLen v := rfl
theorem writeReg_status : s.writeReg 0x01C v = s.writeStatus v := rfl

theorem writeReg_table {off : Offset} {x : Nat} (h : registerAt off = .table x) :
    s.writeReg off v = s.writeTable x v := by
  unfold State.writeReg; rw [h]

/-- R33–R35, R46–R48, R54: a write to a read-only register or to a reserved offset is ignored. -/
theorem writeReg_readOnly {off : Offset} (ha : off.toNat % 4 = 0)
    (h : off.toNat ≤ 0x00C ∨ (0x020 ≤ off.toNat ∧ off.toNat ≤ 0x3FC) ∨ 0x800 ≤ off.toNat) :
    s.writeReg off v = s := by
  unfold State.writeReg
  cases hr : registerAt off with
  | ctrl | tableLen | cmd | status => have := registerAt_address ha hr rfl; omega
  | table x => have := registerAt_table hr; omega
  | id | version | hwcfg | resNum | resDen | resAux | reserved => rfl

end Writes

/-- R32–R54: what a write of `v` to the offset `off` can do in the state `s`, by the register there. -/
inductive WriteEffect (s : State) (off : Offset) (v : Word) : State → Prop where
  | ignored (hc : registerAt off ≠ .cmd) (hs : registerAt off ≠ .status)
      (hl : registerAt off ≠ .tableLen) (ht : ∀ x, registerAt off ≠ .table x) :
      WriteEffect s off v s
  | ctrl (hr : registerAt off = .ctrl) : WriteEffect s off v (s.writeCtrl v)
  | status (hr : registerAt off = .status) : WriteEffect s off v (s.writeStatus v)
  | dropped (hr : registerAt off = .cmd) (hb : s.busy = true) : WriteEffect s off v s.dropCommand
  | accepted (hr : registerAt off = .cmd) (hb : s.busy = false) : WriteEffect s off v (s.accept v)
  | tableDropped (hr : registerAt off = .tableLen ∨ ∃ x, registerAt off = .table x)
      (hb : s.busy = true) : WriteEffect s off v s.dropTableWrite
  | lengthStored (hr : registerAt off = .tableLen) (hb : s.busy = false) :
      WriteEffect s off v { s with tableLen := v }
  | entryStored (x : Nat) (hr : registerAt off = .table x) (hb : s.busy = false) :
      WriteEffect s off v { s with table := s.table.writeWord (tableAddr x) v }

theorem writeReg_effect (s : State) (off : Offset) (v : Word) :
    WriteEffect s off v (s.writeReg off v) := by
  unfold State.writeReg
  cases hr : registerAt off with
  | ctrl => exact .ctrl hr
  | status => exact .status hr
  | cmd =>
    cases hb : s.busy with
    | true => simpa [State.issue, hb] using WriteEffect.dropped hr hb
    | false => simpa [State.issue, hb] using WriteEffect.accepted hr hb
  | tableLen =>
    cases hb : s.busy with
    | true => simpa [State.writeTableLen, hb] using WriteEffect.tableDropped (.inl hr) hb
    | false => simpa [State.writeTableLen, hb] using WriteEffect.lengthStored hr hb
  | table x =>
    cases hb : s.busy with
    | true => simpa [State.writeTable, hb] using WriteEffect.tableDropped (.inr ⟨x, hr⟩) hb
    | false => simpa [State.writeTable, hb] using WriteEffect.entryStored x hr hb
  | id | version | hwcfg | resNum | resDen | resAux | reserved =>
    exact .ignored (by simp [hr]) (by simp [hr]) (by simp [hr]) (by simp [hr])

namespace WriteEffect

variable {s t : State} {off : Offset} {v : Word}

/-- R40: no write clears BUSY, and only a CMD write sets it. -/
theorem busy_iff (h : WriteEffect s off v t) :
    t.busy = true ↔ s.busy = true ∨ registerAt off = .cmd := by
  cases h with
  | tableDropped hr hb => simp [hb]
  | _ => simp [*]

/-- R41: an acceptance and a STATUS write with bit 1 set clear DONE. -/
theorem done_iff (h : WriteEffect s off v t) :
    t.done = true ↔ s.done = true ∧ ¬ (s.busy = false ∧ registerAt off = .cmd) ∧
      ¬ (registerAt off = .status ∧ v.getLsbD 1 = true) := by
  cases h with
  | tableDropped hr hb => obtain hr | ⟨x, hr⟩ := hr <;> simp [hr]
  | _ => simp [*]

/-- R43: of the writes, an acceptance alone touches ERRCODE. -/
theorem errcode_eq (h : WriteEffect s off v t) :
    t.errcode = if s.busy = false ∧ registerAt off = .cmd then 0 else s.errcode := by
  cases h with
  | tableDropped hr hb => simp [hb]
  | _ => simp [*]

/-- R44: a CMD write while busy sets OVERRUN, a STATUS write with bit 8 set clears it. -/
theorem overrun_iff (h : WriteEffect s off v t) :
    t.overrun = true ↔ (s.busy = true ∧ registerAt off = .cmd) ∨
      (s.overrun = true ∧ ¬ (registerAt off = .status ∧ v.getLsbD 8 = true)) := by
  cases h with
  | tableDropped hr hb => obtain hr | ⟨x, hr⟩ := hr <;> simp [hr]
  | _ => simp [*]

/-- R45: a TABLE or TABLE_LEN write while busy sets WRBUSY, a STATUS write with bit 9 set clears it. -/
theorem wrbusy_iff (h : WriteEffect s off v t) :
    t.wrbusy = true ↔
      (s.busy = true ∧ (registerAt off = .tableLen ∨ ∃ x, registerAt off = .table x)) ∨
      (s.wrbusy = true ∧ ¬ (registerAt off = .status ∧ v.getLsbD 9 = true)) := by
  cases h with
  | tableDropped hr hb => simp [hr, hb]
  | _ => simp [*]

/-- R46–R48: no write touches the result triple. -/
theorem results_eq (h : WriteEffect s off v t) :
    t.resNum = s.resNum ∧ t.resDen = s.resDen ∧ t.resAux = s.resAux := by
  cases h <;> exact ⟨rfl, rfl, rfl⟩

end WriteEffect

end Sys2Proof.Machine
end

section
/-! What a step does, over `WriteEffect`: a write, nothing to the registers, a completion, or a reset;
and the two steps that a scheduled read or write takes. -/

namespace Sys2Proof.Machine

open Sys2Proof.Safety

/-! ### Effective writes -/

section StepWrites

variable {s : State} {off : Offset} {v : Word}

/-- A step performs at most one write. -/
theorem stepWrites_iff (h : stepWrites s off v) (off' : Offset) (v' : Word) :
    stepWrites s off' v' ↔ off = off' ∧ v = v' := by
  obtain ⟨hr, a, ha, hs, hw, rfl, rfl⟩ := h
  constructor
  · rintro ⟨_, a', ha', _, _, rfl, rfl⟩
    obtain rfl : a = a' := Option.some.inj (ha.symm.trans ha')
    exact ⟨rfl, rfl⟩
  · rintro ⟨rfl, rfl⟩
    exact ⟨hr, a, ha, hs, hw, rfl, rfl⟩

/-- R83: an effective write is aligned. -/
theorem stepWrites_aligned (h : stepWrites s off v) : off.toNat % 4 = 0 := by
  obtain ⟨_, a, _, hs, _, rfl, _⟩ := h
  simp only [Transfer.supported, Bool.and_eq_true, decide_eq_true_eq] at hs
  exact hs.2

theorem exists_stepWrites_cmd (h : stepWrites s off v) :
    (∃ w, stepWrites s 0x018 w) ↔ registerAt off = .cmd := by
  simp only [stepWrites_iff h, registerAt_eq_cmd (stepWrites_aligned h), exists_and_left,
    exists_eq', and_true]

theorem exists_stepWrites_status (h : stepWrites s off v) (k : Nat) :
    (∃ w, stepWrites s 0x01C w ∧ w.getLsbD k = true) ↔
      registerAt off = .status ∧ v.getLsbD k = true := by
  simp only [stepWrites_iff h, registerAt_eq_status (stepWrites_aligned h), and_assoc,
    exists_and_left, exists_eq_left']

theorem exists_stepWrites_table (h : stepWrites s off v) :
    (∃ off' w, stepWrites s off' w ∧
      (off' = 0x014 ∨ (0x400 ≤ off'.toNat ∧ off'.toNat ≤ 0x7FC))) ↔
      registerAt off = .tableLen ∨ ∃ x, registerAt off = .table x := by
  have ha := stepWrites_aligned h
  simp only [stepWrites_iff h, registerAt_eq_tableLen ha, exists_registerAt_eq_table ha, and_assoc,
    exists_and_left, exists_eq_left']

end StepWrites

/-! ### Completions -/

section Complete

variable (r : CmdResult) (s : State)

@[simp] theorem complete_ie : (s.complete r).ie = s.ie := by cases r <;> rfl
@[simp] theorem complete_tableLen : (s.complete r).tableLen = s.tableLen := by cases r <;> rfl
@[simp] theorem complete_busy : (s.complete r).busy = false := by cases r <;> rfl
@[simp] theorem complete_done : (s.complete r).done = true := by cases r <;> rfl
@[simp] theorem complete_overrun : (s.complete r).overrun = s.overrun := by cases r <;> rfl
@[simp] theorem complete_wrbusy : (s.complete r).wrbusy = s.wrbusy := by cases r <;> rfl
@[simp] theorem complete_table : (s.complete r).table = s.table := by cases r <;> rfl
@[simp] theorem complete_snap : (s.complete r).snap = s.snap := by cases r <;> rfl
@[simp] theorem complete_epoch : (s.complete r).epoch = s.epoch := by cases r <;> rfl

theorem complete_withSchedule (ts : List Turn) :
    (s.withSchedule ts).complete r = (s.complete r).withSchedule ts := by cases r <;> rfl

end Complete

/-- R133, R281: the engine's step completes with the outcome of a command, an illegal word with that of
a reserved row. -/
theorem completion_eq_outcome (s : State) :
    ∃ i, completion s = .next (s.complete (outcome i s.snap)) := by
  obtain ⟨r, h, ⟨i, _, rfl⟩ | ⟨_, rfl⟩⟩ := completion_eq s
  · exact ⟨i, h⟩
  · exact ⟨.reservedE 0, h⟩

/-! ### Every step -/

/-- R30, R88, R310: what a step from `s` can lead to. -/
inductive StepEffect (s : State) : State → Prop where
  | write {off : Offset} {v : Word} {w : State} (b : BusResponse) (h : HostState)
      (hw : stepWrites s off v) (he : WriteEffect s off v w)
      (hres : stepResets s = false) (hcomp : ¬ stepCompletes s) :
      StepEffect s (w.beside b h s.schedule.tail)
  | quiet (b : BusResponse) (h : HostState) (hno : ∀ off v, ¬ stepWrites s off v)
      (hres : stepResets s = false) (hcomp : ¬ stepCompletes s) :
      StepEffect s (s.beside b h s.schedule.tail)
  | complete (i : Instr) (hno : ∀ off v, ¬ stepWrites s off v)
      (hres : stepResets s = false) (hcomp : stepCompletes s) :
      StepEffect s ((s.complete (outcome i s.snap)).withSchedule s.schedule.tail)
  | reset (l : Bool) (hno : ∀ off v, ¬ stepWrites s off v)
      (hres : stepResets s = true) (hcomp : ¬ stepCompletes s) :
      StepEffect s ((s.withSchedule s.schedule.tail).driveReset l)

theorem stepEffect_of_step {s t : State} (h : step s = .next t) : StepEffect s t := by
  rcases step_effect s with ⟨off, v, hw, hres, hcomp, b, g, e⟩ | ⟨hno, hres, hcomp, b, g, e⟩ |
    ⟨hno, hres, hcomp, e⟩ | ⟨hno, hres, hcomp, l, _, e⟩
  · obtain rfl := Host.Outcome.next.inj (e.symm.trans h)
    exact .write b g hw (writeReg_effect s off v) hres hcomp
  · obtain rfl := Host.Outcome.next.inj (e.symm.trans h)
    exact .quiet b g hno hres hcomp
  · obtain ⟨i, hi⟩ := completion_eq_outcome (s.withSchedule s.schedule.tail)
    obtain rfl := Host.Outcome.next.inj (hi.symm.trans (e.symm.trans h))
    rw [complete_withSchedule]
    exact .complete i hno hres hcomp
  · obtain rfl := Host.Outcome.next.inj (e.symm.trans h)
    exact .reset l hno hres hcomp

/-! ### Steps of a scheduled access -/

theorem step_scheduled_access {s : State} {a : Transfer} {ts : List Turn}
    (h : s.schedule = .access a :: ts) : step s = .next ((s.withSchedule ts).access a) := by
  simp [step, oneStep, nextTurn, takeTurn, h]

/-- R84: a scheduled aligned read leaves its value on the bus and uses up its turn. -/
theorem step_scheduled_read {s : State} {off : Offset} {ts : List Turn}
    (h : s.schedule = .access (readTransfer off) :: ts) (hr : s.rstN = true)
    (ha : off.toNat % 4 = 0) :
    step s = .next { s with bus := .readData (s.readReg off), schedule := ts } := by
  rw [step_scheduled_access h, access_readTransfer, if_pos ha, State.withSchedule_rstN, if_pos hr]
  rfl

/-- R84, R310: a scheduled aligned write acts while rst_n is high, and uses up its turn. -/
theorem step_scheduled_write {s : State} {off : Offset} {v : Word} {ts : List Turn}
    (h : s.schedule = .access (writeTransfer off v) :: ts) (ha : off.toNat % 4 = 0) :
    step s = .next ((if s.rstN then s.writeReg off v else s).beside .writeDone s.host ts) := by
  have hs : (writeTransfer off v).supported = true := by
    simp [Transfer.supported, writeTransfer, ha]
  have hw : (s.withSchedule ts).writeReg off v = (s.writeReg off v).beside s.bus s.host ts :=
    writeReg_beside s.bus s.host ts off v s
  rw [step_scheduled_access h, State.access, if_pos hs]
  cases hr : s.rstN with
  | true =>
    simp only [State.withSchedule_rstN, hr, if_true, writeTransfer, hw]; rfl
  | false => simp only [State.withSchedule_rstN, hr]; rfl

end Sys2Proof.Machine
end

section
/-! Outcomes with a denominator (R47, R15): a completion leaves ERRCODE 0 exactly when its result has a
value. -/

namespace Sys2Proof.Machine

/-- Over the widths that a command admits (R134), its results have a denominator of at least 1. -/
def HasDenominator (minWidth : Nat) (compute : Nat → (Nat → Nat) → Triple) : Prop :=
  ∀ n S, 1 ≤ n → n ≤ 8 → minWidth ≤ n → 1 ≤ (compute n S).den.toNat

theorem hasDenominator_of_den_one {m : Nat} {compute : Nat → (Nat → Nat) → Triple}
    (h : ∀ n S, (compute n S).den = 1) : HasDenominator m compute := by
  intro n S _ _ _
  rw [h]; decide

theorem hasDenominator_of_den_two_pow {m : Nat} {compute : Nat → (Nat → Nat) → Triple}
    (h : ∀ n S, (compute n S).den = zext32 (2 ^ n)) : HasDenominator m compute := by
  intro n S h1 h8 _
  rw [h]
  interval_cases n <;> decide

/-- R234: `n·n·N` stays within a word. -/
theorem hasDenominator_sac : HasDenominator 1 computeSac := by
  intro n S h1 h8 _
  change 1 ≤ (zext32 (n * n * 2 ^ n)).toNat
  interval_cases n <;> decide

/-- R254: `N·n·n(n-1)/2` stays within a word, and is 0 only for n = 1. -/
theorem hasDenominator_bicsac : HasDenominator 2 computeBicsac := by
  intro n S _ h8 h2
  change 1 ≤ (zext32 (2 ^ n * n * (n * (n - 1) / 2))).toNat
  interval_cases n <;> decide

theorem tableCommand_ok_den {m : Nat} {ok : Nat → Bool} {compute : Nat → (Nat → Nat) → Triple}
    (hc : HasDenominator m compute) {p : Snapshot} {r : Triple}
    (h : tableCommand m ok compute p = .ok r) : 1 ≤ r.den.toNat := by
  rcases tableCommand_cases m ok compute p with ⟨_, e⟩ | ⟨n, hn, ⟨_, e⟩ | ⟨_, _, _, _, _, e⟩ |
    ⟨_, _, e⟩⟩
  · rw [e] at h; cases h
  · rw [e] at h; cases h
  · rw [e] at h; cases h
  · rw [e] at h
    obtain rfl := CmdResult.ok.inj h
    obtain ⟨h1, h8, hm, _⟩ := supportedWidth_eq_some.1 hn
    exact hc n p.entry h1 h8 hm

/-- R47: a command that succeeds has a denominator of at least 1. -/
theorem outcome_ok_den {i : Instr} {p : Snapshot} {r : Triple} (h : outcome i p = .ok r) :
    1 ≤ r.den.toNat := by
  cases i with
  | sac => exact tableCommand_ok_den hasDenominator_sac h
  | bicsac => exact tableCommand_ok_den hasDenominator_bicsac h
  | check | nl | bicnl | bicnlp _ _ =>
    exact tableCommand_ok_den (hasDenominator_of_den_one fun _ _ => rfl) h
  | lap | dap | walsh _ _ | ddt _ _ | flip _ _ | biccorr _ _ _ =>
    exact tableCommand_ok_den (hasDenominator_of_den_two_pow fun _ _ => rfl) h
  | popcnt _ | bitdot _ _ => obtain rfl := CmdResult.ok.inj h; exact le_refl 1
  | reservedE _ | reservedF _ => cases h

/-- R280: the codes of errors are not 0. -/
theorem CmdError.code_ne_zero (e : CmdError) : e.code ≠ 0 := by cases e <;> decide

/-- R43, R47: a completion leaves ERRCODE 0 exactly when its result has a value. -/
theorem complete_outcome_errcode_eq_zero (i : Instr) (p : Snapshot) (s : State) :
    (s.complete (outcome i p)).errcode = 0 ↔ 1 ≤ (s.complete (outcome i p)).resDen.toNat := by
  rcases complete_cases (outcome i p) s with ⟨r, hr, e⟩ | ⟨c, aux, _, e⟩
  · rw [e]
    exact ⟨fun _ => outcome_ok_den hr, fun _ => rfl⟩
  · rw [e]
    exact ⟨fun h => absurd h c.code_ne_zero, fun h => by simp at h⟩

end Sys2Proof.Machine
end

section
/-! The invariants of the table memory and of a command in flight, kept by every step. -/

namespace Sys2Proof.Machine

open Sys2Proof.Safety

/-- R49: a write keeps the one form of the table memory and of its snapshot. -/
theorem WriteEffect.tableForm {s t : State} {off : Offset} {v : Word} (h : WriteEffect s off v t)
    (hs : TableForm s) : TableForm t := by
  obtain ⟨htable, hsnap⟩ := hs
  cases h with
  | accepted => exact ⟨htable, htable⟩
  | entryStored x hr =>
    obtain ⟨hlo, hhi⟩ := tableAddr_inTable (registerAt_table_lt hr)
    exact ⟨Memory.writeWord_wf v hlo hhi htable, hsnap⟩
  | _ => exact ⟨htable, hsnap⟩

/-- R311: whatever the reset pin does keeps the form; the snapshot is emptied or kept. -/
theorem driveReset_tableForm (l : Bool) {s : State} (hs : TableForm s) : TableForm (s.driveReset l) := by
  obtain ⟨htable, hsnap⟩ := hs
  rcases driveReset_cases l s with ⟨_, _, e⟩ | ⟨_, _, e⟩ | ⟨_, e⟩
  · rw [e]; exact ⟨htable, hsnap⟩
  · rw [e]; exact ⟨Memory.kept_wf _ htable, Memory.wf_nil⟩
  · rw [e]; exact ⟨htable, Memory.wf_nil⟩

/-- Settles O52, by the four effects of a step. -/
theorem stepKeepsTableForm : Obligations.StepKeepsTableForm := by
  unfold Obligations.StepKeepsTableForm
  intro s t hs h
  cases stepEffect_of_step h with
  | write b g hw he => exact he.tableForm hs
  | quiet => exact hs
  | complete i => simpa [TableForm] using hs
  | reset l => exact driveReset_tableForm l hs

/-- R41, R43, R50, R321: a write keeps the form of a command in flight; the acceptance establishes it,
and no other write moves the table, its length, DONE or ERRCODE away from it while BUSY = 1. -/
theorem WriteEffect.busyForm {s t : State} {off : Offset} {v : Word} (h : WriteEffect s off v t)
    (hs : BusyForm s) : BusyForm t := by
  cases h with
  | status =>
    intro hb
    obtain ⟨hdone, herr, hsnap⟩ := hs hb
    exact ⟨by simp [hdone], herr, hsnap⟩
  | accepted => exact fun _ => ⟨rfl, rfl, rfl⟩
  | lengthStored _ hidle => exact fun hb => absurd hb (by simp [hidle])
  | entryStored _ _ hidle => exact fun hb => absurd hb (by simp [hidle])
  | ignored | ctrl | dropped | tableDropped => exact hs

/-- Settles O53, by the four effects of a step. -/
theorem stepKeepsBusyForm : Obligations.StepKeepsBusyForm := by
  unfold Obligations.StepKeepsBusyForm
  intro s t hs h
  cases stepEffect_of_step h with
  | write b g hw he => exact he.busyForm hs
  | quiet => exact hs
  | complete i => intro hb; simp at hb
  | reset l hno hres =>
    obtain ⟨_, _, _, hidle, _⟩ := stepResets_registers hres h
    exact fun hb => absurd hb (by simp [hidle])

end Sys2Proof.Machine
end

section
/-! What changes each flag, the result triple and the table: each one read off the four effects of a
step. -/

namespace Sys2Proof.Machine

open Sys2Proof.Safety

/-- Settles O41, by the four effects of a step; of the writes only a CMD write raises BUSY. -/
theorem busyChangesOnly : Obligations.BusyChangesOnly := by
  unfold Obligations.BusyChangesOnly
  refine ⟨rfl, fun s t h => ?_⟩
  cases stepEffect_of_step h with
  | write b g hw he hres hcomp =>
    rw [State.beside_busy, he.busy_iff, exists_stepWrites_cmd hw]
    cases hb : s.busy <;> simp [hres, hcomp]
  | quiet b g hno hres hcomp => simp [hno, hres, hcomp]
  | complete i hno hres hcomp => simp [hno, hcomp]
  | reset l hno hres =>
    obtain ⟨_, _, _, hidle, _⟩ := stepResets_registers hres h
    simp [hno, hres, hidle]

/-- Settles O42, by the four effects of a step; a write leaves DONE as `WriteEffect.done_iff` says. -/
theorem doneChangesOnly : Obligations.DoneChangesOnly := by
  unfold Obligations.DoneChangesOnly
  refine ⟨rfl, fun s t h => ?_⟩
  cases stepEffect_of_step h with
  | write b g hw he hres hcomp =>
    rw [State.beside_done, he.done_iff, exists_stepWrites_cmd hw, exists_stepWrites_status hw]
    simp only [hres, hcomp, false_or, true_and]
  | quiet b g hno hres hcomp => simp [hno, hres, hcomp]
  | complete i hno hres hcomp => exact ⟨fun _ => .inl hcomp, fun _ => by simp⟩
  | reset l hno hres hcomp =>
    obtain ⟨_, _, _, _, hdone, _⟩ := stepResets_registers hres h
    simp [hres, hcomp, hdone]

/-- Settles O43, by the four effects of a step; that a success has a denominator is `outcome_ok_den`. -/
theorem errcodeChangesOnly : Obligations.ErrcodeChangesOnly := by
  unfold Obligations.ErrcodeChangesOnly
  refine ⟨rfl, fun s t h => ?_⟩
  cases stepEffect_of_step h with
  | write b g hw he hres hcomp =>
    rw [State.beside_errcode, he.errcode_eq, exists_stepWrites_cmd hw]
    refine ⟨fun ha => if_pos ha, fun hr => ?_, fun hc => absurd hc hcomp, fun _ _ ha => if_neg ha⟩
    rw [hres] at hr; cases hr
  | quiet b g hno hres hcomp => simp [hno, hres, hcomp]
  | complete i hno hres hcomp =>
    refine ⟨fun ⟨_, w, hw⟩ => absurd hw (hno _ _), fun hr => ?_,
      fun _ => complete_outcome_errcode_eq_zero i s.snap s, fun hn => absurd hcomp hn⟩
    rw [hres] at hr; cases hr
  | reset l hno hres hcomp =>
    obtain ⟨_, _, _, _, _, herr, _⟩ := stepResets_registers hres h
    simp [hres, hcomp, herr]

/-- Settles O44, by the four effects of a step; see `WriteEffect.overrun_iff`. -/
theorem overrunChangesOnly : Obligations.OverrunChangesOnly := by
  unfold Obligations.OverrunChangesOnly
  refine ⟨rfl, fun s t h => ?_⟩
  cases stepEffect_of_step h with
  | write b g hw he hres =>
    rw [State.beside_overrun, he.overrun_iff, exists_stepWrites_cmd hw, exists_stepWrites_status hw]
    simp only [hres, true_and]
  | quiet b g hno hres => simp [hno, hres]
  | complete i hno hres => simp [hno, hres]
  | reset l hno hres =>
    obtain ⟨_, _, _, _, _, _, hoverrun, _⟩ := stepResets_registers hres h
    simp [hres, hoverrun]

/-- Settles O45, by the four effects of a step; see `WriteEffect.wrbusy_iff`. -/
theorem wrbusyChangesOnly : Obligations.WrbusyChangesOnly := by
  unfold Obligations.WrbusyChangesOnly
  refine ⟨rfl, fun s t h => ?_⟩
  cases stepEffect_of_step h with
  | write b g hw he hres =>
    rw [State.beside_wrbusy, he.wrbusy_iff, exists_stepWrites_table hw, exists_stepWrites_status hw]
    simp only [hres, true_and]
  | quiet b g hno hres => simp [hno, hres]
  | complete i hno hres => simp [hno, hres]
  | reset l hno hres =>
    obtain ⟨_, _, _, _, _, _, _, hwrbusy, _⟩ := stepResets_registers hres h
    simp [hres, hwrbusy]

/-- Settles O46: no write and no turn without one touches the result triple. -/
theorem resultsChangeOnlyAtCompletion : Obligations.ResultsChangeOnlyAtCompletion := by
  unfold Obligations.ResultsChangeOnlyAtCompletion
  intro s t h hcomp hres
  cases stepEffect_of_step h with
  | write b g hw he => exact he.results_eq
  | quiet => exact ⟨rfl, rfl, rfl⟩
  | complete i _ _ hc => exact absurd hc hcomp
  | reset l _ hr => rw [hres] at hr; cases hr

/-- R49: an entry reads from the table memory and its draws alone. -/
theorem tableWord_congr {s t : State} (htable : t.table = s.table) (hepoch : t.epoch = s.epoch)
    (x : Nat) : t.tableWord x = s.tableWord x := by
  unfold State.tableWord
  rw [htable, hepoch]

/-- R49: after a write of one entry that entry reads as the word written, and every other as before. -/
theorem tableWord_writeWord (s : State) (x : Nat) (v : Word) (y : Nat) :
    ({ s with table := s.table.writeWord (tableAddr x) v } : State).tableWord y =
      if y = x then v else s.tableWord y := by
  unfold State.tableWord
  split
  · subst y; exact Memory.readWord_writeWord_self _ _ _ _
  · exact Memory.readWord_writeWord_other _ _ _ (by unfold tableAddr; omega)

/-- R49: a write that changes what an entry reads as stores it there, while idle. -/
theorem WriteEffect.tableWord_changed {s t : State} {off : Offset} {v : Word} {x : Nat}
    (h : WriteEffect s off v t) (hx : t.tableWord x ≠ s.tableWord x) :
    s.busy = false ∧ registerAt off = .table x ∧ t.tableWord x = v := by
  cases h with
  | entryStored y hr hb =>
    have hword := tableWord_writeWord s y v x
    split at hword
    · subst x; exact ⟨hb, hr, hword⟩
    · exact absurd hword hx
  | _ => exact absurd (tableWord_congr rfl rfl x) hx

/-- Settles O47, by `WriteEffect.tableWord_changed`. -/
theorem tableChangesOnlyByIdleWrite : Obligations.TableChangesOnlyByIdleWrite := by
  unfold Obligations.TableChangesOnlyByIdleWrite
  intro s t x _ h hres hx
  cases stepEffect_of_step h with
  | write b g hw he =>
    obtain ⟨hb, hr, hv⟩ := he.tableWord_changed hx
    obtain ⟨_, hoff⟩ := (registerAt_eq_table (stepWrites_aligned hw)).1 hr
    exact ⟨hb, (stepWrites_iff hw _ _).2 ⟨hoff, hv.symm⟩⟩
  | quiet => exact absurd rfl hx
  | complete i => exact absurd (tableWord_congr (by simp) (by simp) x) hx
  | reset l _ hr => rw [hres] at hr; cases hr

end Sys2Proof.Machine
end

section
/-! The registers as a host reads and writes them (R32–R54), and irq (R51). -/

namespace Sys2Proof.Machine

open Sys2Proof.Safety

/-! ### STATUS and CTRL bit by bit -/

section Bits

variable (s : State)

/-- R39: each bit of STATUS. -/
theorem status_getLsbD (k : Nat) :
    s.status.getLsbD k =
      if k = 0 then s.busy else if k = 1 then s.done else if k = 2 then s.err
      else if k = 3 then false else if k < 8 then s.errcode.getLsbD (k - 4)
      else if k = 8 then s.overrun else if k = 9 then s.wrbusy else false := by
  simp only [State.status, BitVec.getLsbD_append]
  by_cases h : k < 10
  · interval_cases k <;> simp
  · obtain ⟨j, rfl⟩ := Nat.exists_eq_add_of_le' (Nat.le_of_not_lt h)
    simp

theorem err_eq_decide : s.err = decide (s.errcode ≠ 0) := by
  rw [Bool.eq_iff_iff]
  simp [State.err]

/-- R37: CTRL is IE in bit 0 and zero elsewhere. -/
theorem ctrl_eq : s.ctrl = if s.ie then 1 else 0 := by
  unfold State.ctrl
  cases s.ie <;> rfl

theorem ctrl_getLsbD_zero : s.ctrl.getLsbD 0 = s.ie := by
  rw [ctrl_eq]
  cases s.ie <;> rfl

end Bits

/-- R37: after a CTRL write of `v`, CTRL reads as bit 0 of `v`. -/
theorem writeCtrl_ctrl (v : Word) (s : State) : (s.writeCtrl v).ctrl = v &&& 1 := by
  rw [ctrl_eq, State.writeCtrl_ie]
  refine BitVec.eq_of_getLsbD_eq fun i hi => ?_
  rw [BitVec.getLsbD_and]
  cases i with
  | zero => cases hv : v.getLsbD 0 <;> simp
  | succ i => cases hv : v.getLsbD 0 <;> simp

/-- R39: a 1 in bit 1, 8 or 9 clears that bit. -/
theorem writeStatus_eq (v : Word) (s : State) :
    s.writeStatus v = { s with
      done := if v.getLsbD 1 then false else s.done,
      overrun := if v.getLsbD 8 then false else s.overrun,
      wrbusy := if v.getLsbD 9 then false else s.wrbusy } := by
  have hclear : ∀ flag one : Bool, (flag && !one) = if one then false else flag := by decide
  simp only [State.writeStatus, hclear]

/-! ### What a read returns -/

section Reads

variable (s : State)

theorem readReg_id : s.readReg 0x000 = idValue := rfl
theorem readReg_version : s.readReg 0x004 = versionValue := rfl
theorem readReg_hwcfg : s.readReg 0x008 = hwcfgValue := rfl
theorem readReg_ctrl : s.readReg 0x010 = s.ctrl := rfl
theorem readReg_tableLen : s.readReg 0x014 = s.tableLen := rfl
theorem readReg_cmd : s.readReg 0x018 = s.lastCmd := rfl
theorem readReg_status : s.readReg 0x01C = s.status := rfl
theorem readReg_resNum : s.readReg 0x020 = s.resNum := rfl
theorem readReg_resDen : s.readReg 0x024 = s.resDen := rfl
theorem readReg_resAux : s.readReg 0x028 = s.resAux := rfl

theorem readReg_table {off : Offset} {x : Nat} (h : registerAt off = .table x) :
    s.readReg off = s.tableWord x := by
  unfold State.readReg; rw [h]

theorem readReg_reserved {off : Offset} (h : registerAt off = .reserved) : s.readReg off = 0 := by
  unfold State.readReg; rw [h]

end Reads

/-- R54: the reserved ranges of the window. -/
theorem registerAt_reserved {off : Offset}
    (h : off = 0x00C ∨ (0x02C ≤ off.toNat ∧ off.toNat ≤ 0x3FC) ∨ 0x800 ≤ off.toNat) :
    registerAt off = .reserved := by
  rcases h with rfl | h
  · rfl
  · have ht : ¬ inTable off.toNat = true := by rw [inTable_iff]; omega
    rw [registerAt_of_le (by omega), if_neg ht]

/-- Settles O37, register by register. -/
theorem registerReads : Obligations.RegisterReads := by
  unfold Obligations.RegisterReads
  intro s off ts h hr ha
  refine ⟨s.readReg off, step_scheduled_read h hr ha, ?_, ?_, ?_, ?_, ?_, ?_, ?_, ?_, ?_, ?_, ?_, ?_⟩
  · rintro rfl; exact readReg_id s
  · rintro rfl; exact readReg_version s
  · rintro rfl; exact readReg_hwcfg s
  · rintro rfl; exact (readReg_ctrl s).trans (ctrl_eq s)
  · rintro rfl; exact readReg_tableLen s
  · rintro rfl; exact readReg_cmd s
  · rintro rfl; exact readReg_status s
  · rintro rfl; exact readReg_resNum s
  · rintro rfl; exact readReg_resDen s
  · rintro rfl; exact readReg_resAux s
  · intro x hx hoff
    exact readReg_table s ((registerAt_eq_table ha).2
      ⟨hx, BitVec.eq_of_toNat_eq (hoff.trans (toNat_entryOffset hx).symm)⟩)
  · exact fun hres => readReg_reserved s (registerAt_reserved hres)

/-- Settles O51; an unwritten byte is its draw by definition of `Memory.readByte`. -/
theorem resetReads : Obligations.ResetReads := by
  unfold Obligations.ResetReads
  have hctrl : State.reset.readReg 0x010 = 0 := by rw [readReg_ctrl, ctrl_eq]; rfl
  have hstatus : State.reset.readReg 0x01C = 0 := by rw [readReg_status]; decide
  exact ⟨readReg_id _, readReg_version _, readReg_hwcfg _, hctrl, readReg_tableLen _, readReg_cmd _,
    hstatus, readReg_resNum _, readReg_resDen _, readReg_resAux _, fun _ => rfl⟩

/-! ### What a scheduled write does -/

/-- Settles O36, by the bits of STATUS and the write of its offset. -/
theorem statusFieldsAndClears : Obligations.StatusFieldsAndClears := by
  unfold Obligations.StatusFieldsAndClears
  refine ⟨by decide, fun s => ?_, fun s v ts h hr => ?_⟩
  · refine ⟨status_getLsbD s 0, status_getLsbD s 1, ?_, status_getLsbD s 3, ?_,
      status_getLsbD s 8, status_getLsbD s 9, fun k hk => ?_⟩
    · exact (status_getLsbD s 2).trans (err_eq_decide s)
    · refine BitVec.eq_of_getLsbD_eq fun i hi => ?_
      rw [BitVec.getLsbD_extractLsb', status_getLsbD]
      interval_cases i <;> rfl
    · rw [status_getLsbD]
      grind
  · rw [step_scheduled_write h rfl, if_pos hr, writeReg_status, writeStatus_eq]
    rfl

/-- Settles O38, by `writeReg_readOnly`, in reset and out of it. -/
theorem readOnlyWritesIgnored : Obligations.ReadOnlyWritesIgnored := by
  unfold Obligations.ReadOnlyWritesIgnored
  intro s off v ts h ha hoff
  rw [step_scheduled_write h ha, writeReg_readOnly s v ha hoff, ite_self]
  rfl

/-- Settles O33, by the reads after a word write (R49, R82). -/
theorem tableWriteStoresVerbatim : Obligations.TableWriteStoresVerbatim := by
  unfold Obligations.TableWriteStoresVerbatim
  intro s x v ts hx h hr hb
  have hoff := toNat_entryOffset hx
  have ha : (BitVec.ofNat 12 (0x400 + 4 * x)).toNat % 4 = 0 := by omega
  have hw : s.writeReg (BitVec.ofNat 12 (0x400 + 4 * x)) v =
      { s with table := s.table.writeWord (tableAddr x) v } := by
    rw [writeReg_table s v ((registerAt_eq_table ha).2 ⟨hx, rfl⟩), State.writeTable,
      if_neg (by simp [hb])]
  refine ⟨_, step_scheduled_write h ha, ?_⟩
  rw [if_pos hr, hw]
  refine ⟨rfl, (tableWord_writeWord s x v x).trans (if_pos rfl),
    fun y hy => (tableWord_writeWord s x v y).trans (if_neg hy), fun a hout => ?_⟩
  change Memory.readByte s.epoch (s.table.writeWord (tableAddr x) v) a = _
  rw [Memory.readByte_writeWord, if_neg (by omega), if_neg (by omega), if_neg (by omega),
    if_neg (by omega)]

/-- Settles O32, by the write and the read of offset 0x014. -/
theorem tableLenHoldsAnyValue : Obligations.TableLenHoldsAnyValue := by
  unfold Obligations.TableLenHoldsAnyValue
  intro s v ts h hr hb
  refine ⟨_, step_scheduled_write h rfl, ?_⟩
  rw [if_pos hr, writeReg_tableLen, State.writeTableLen, if_neg (by simp [hb])]
  exact ⟨rfl, readReg_tableLen _⟩

/-- Settles O35, by the write and the read of offset 0x010. -/
theorem ctrlWriteSetsEnable : Obligations.CtrlWriteSetsEnable := by
  unfold Obligations.CtrlWriteSetsEnable
  intro s v ts h hr
  refine ⟨_, step_scheduled_write h rfl, ?_⟩
  rw [if_pos hr, writeReg_ctrl]
  exact ⟨rfl, writeCtrl_ctrl v s⟩

/-! ### irq -/

/-- R51: a completion leaves irq at IE. -/
theorem complete_irq (r : CmdResult) (s : State) : (s.complete r).irq = s.ie := by
  simp [State.irq]

/-- Settles O40; after a completion irq is `complete_irq`. -/
theorem irqFollowsDoneAndEnable : Obligations.IrqFollowsDoneAndEnable := by
  unfold Obligations.IrqFollowsDoneAndEnable
  refine ⟨fun s => ?_, fun i s t h => ?_, fun _ _ => rfl, rfl⟩
  · rw [status_getLsbD, ctrl_getLsbD_zero]
    rfl
  · rw [exec_eq_complete] at h
    obtain rfl := Host.Outcome.next.inj h
    exact complete_irq _ s

end Sys2Proof.Machine
end

section
/-! Bus errors (R83): which transfers get one, and what is left of a state after one. -/

namespace Sys2Proof.Machine

/-- R83: a transfer is unsupported for its width, its burst or its alignment. -/
theorem Transfer.supported_eq_false_iff (a : Transfer) :
    a.supported = false ↔ a.bytes ≠ 4 ∨ a.burst = true ∨ a.offset.toNat % 4 ≠ 0 := by
  simp only [Transfer.supported, Bool.and_eq_false_iff, Bool.not_eq_false', decide_eq_false_iff_not,
    or_assoc, ne_eq]

/-- R83: an unsupported access is answered and does nothing else, while rst_n is low too (log 9). -/
theorem access_unsupported {a : Transfer} (h : a.supported = false) (s : State) :
    s.access a = s.respond (if a.write then .writeError else .readError) := by
  rw [State.access, if_neg (Bool.eq_false_iff.1 h)]

/-- R83: both of the responses to an unsupported access are bus errors. -/
theorem unsupported_pslverr (write : Bool) :
    (if write then BusResponse.writeError else .readError).pslverr = true := by
  cases write <;> rfl

/-- Settles O39: the step is the access, which is unsupported and so only responds. -/
theorem busErrorHasNoEffect : Obligations.BusErrorHasNoEffect := by
  unfold Obligations.BusErrorHasNoEffect
  intro s a ts h ha
  have hns : a.supported = false := a.supported_eq_false_iff.2 ha
  refine ⟨if a.write then .writeError else .readError, ?_, unsupported_pslverr a.write, fun hread => ?_⟩
  · rw [step_scheduled_access h, access_unsupported hns]
    rfl
  · rw [hread]
    rfl

end Sys2Proof.Machine
end

section
/-! The fields of a command word (R101): they make up the word; what each reads of a packed word; what
a word that matches under a row's mask must hold (R104). -/

namespace Sys2Proof

/-- R101: a word is its five fields. -/
theorem append_fields (w : Word) :
    f3Field w ++ f2Field w ++ f1Field w ++ rsvField w ++ opField w = w := by
  refine BitVec.eq_of_getLsbD_eq fun i hi => ?_
  simp only [opField, rsvField, f1Field, f2Field, f3Field, BitVec.getLsbD_append,
    BitVec.getLsbD_extractLsb']
  interval_cases i <;> rfl

/-- R101, R103: a word whose RSV is 0 is packed from its fields. -/
theorem packWord_fields {w : Word} (h : rsvField w = 0) :
    packWord (opField w) (f1Field w) (f2Field w) (f3Field w) = w := by
  conv_rhs => rw [← append_fields w, h]
  rfl

/-- The bits above OP and OP make up the word (R104's mask 0x0000000F). -/
theorem append_opField (w : Word) : w.extractLsb' 4 28 ++ opField w = w :=
  BitVec.extractLsb'_append_extractLsb' (w := 28) (len := 4) (x := w)

theorem append_of_opField {w : Word} {op : BitVec 4} (h : opField w = op) :
    w.extractLsb' 4 28 ++ op = w := h ▸ append_opField w

section Packed

variable (op : BitVec 4) (f1 f2 f3 : Operand) (rest : BitVec 28)

/-- From bit 8 up a packed word holds its operand fields. -/
theorem extractLsb'_packWord {k len : Nat} (hk : 8 ≤ k) :
    (packWord op f1 f2 f3).extractLsb' k len = (f3 ++ f2 ++ f1).extractLsb' (k - 4 - 4) len :=
  (BitVec.extractLsb'_append_eq_of_le (by omega)).trans
    (BitVec.extractLsb'_append_eq_of_le (by omega))

@[simp] theorem opField_packWord : opField (packWord op f1 f2 f3) = op :=
  BitVec.extractLsb'_append_eq_right

@[simp] theorem rsvField_packWord : rsvField (packWord op f1 f2 f3) = 0 :=
  (BitVec.extractLsb'_append_eq_of_le (le_refl 4)).trans BitVec.extractLsb'_append_eq_right

@[simp] theorem f1Field_packWord : f1Field (packWord op f1 f2 f3) = f1 :=
  (extractLsb'_packWord op f1 f2 f3 (by decide)).trans BitVec.extractLsb'_append_eq_right

@[simp] theorem f2Field_packWord : f2Field (packWord op f1 f2 f3) = f2 :=
  (extractLsb'_packWord op f1 f2 f3 (by decide)).trans
    ((BitVec.extractLsb'_append_eq_of_le (by decide)).trans BitVec.extractLsb'_append_eq_right)

@[simp] theorem f3Field_packWord : f3Field (packWord op f1 f2 f3) = f3 :=
  (extractLsb'_packWord op f1 f2 f3 (by decide)).trans
    ((BitVec.extractLsb'_append_eq_of_le (by decide)).trans BitVec.extractLsb'_append_eq_left)

@[simp] theorem opField_append : opField (rest ++ op) = op :=
  BitVec.extractLsb'_append_eq_right

@[simp] theorem extractLsb'_append_op : (rest ++ op).extractLsb' 4 28 = rest :=
  BitVec.extractLsb'_append_eq_left

end Packed

/-! ### A word under the mask of a row (R104) -/

section Masked

variable {w m : Word} {op : BitVec 4}

/-- A field that a mask keeps whole is the masked word's field. -/
theorem extractLsb'_eq_of_and_eq {v : Word} {k len : Nat} (h : w &&& m = v)
    (hm : m.extractLsb' k len = BitVec.allOnes len) : w.extractLsb' k len = v.extractLsb' k len := by
  rw [← h, BitVec.extractLsb'_and, hm, BitVec.and_allOnes]

/-- R104: under a mask that keeps OP and RSV, a match with RSV 0 gives the word its OP. -/
theorem packWord_fields_of_and (h : w &&& m = packWord op 0 0 0)
    (hop : opField m = BitVec.allOnes 4) (hrsv : rsvField m = BitVec.allOnes 4) :
    packWord op (f1Field w) (f2Field w) (f3Field w) = w := by
  have hopw : opField w = op := (extractLsb'_eq_of_and_eq h hop).trans (opField_packWord ..)
  have hrsvw : rsvField w = 0 := (extractLsb'_eq_of_and_eq h hrsv).trans (rsvField_packWord ..)
  rw [← hopw, packWord_fields hrsvw]

/-- The rows with three operands. -/
theorem packWord_of_and_three (op : BitVec 4) (h : w &&& 0x000000FF = packWord op 0 0 0) :
    packWord op (f1Field w) (f2Field w) (f3Field w) = w :=
  packWord_fields_of_and h rfl rfl

/-- The rows with two operands. -/
theorem packWord_of_and_two (op : BitVec 4) (h : w &&& 0xFF0000FF = packWord op 0 0 0) :
    packWord op (f1Field w) (f2Field w) 0 = w := by
  have hf3 : f3Field w = 0 := (extractLsb'_eq_of_and_eq h rfl).trans (f3Field_packWord ..)
  rw [← hf3, packWord_fields_of_and h rfl rfl]

/-- The rows with one operand. -/
theorem packWord_of_and_one (op : BitVec 4) (h : w &&& 0xFFFF00FF = packWord op 0 0 0) :
    packWord op (f1Field w) 0 0 = w := by
  have hf2 : f2Field w = 0 := (extractLsb'_eq_of_and_eq h rfl).trans (f2Field_packWord ..)
  have hf3 : f3Field w = 0 := (extractLsb'_eq_of_and_eq h rfl).trans (f3Field_packWord ..)
  conv_rhs => rw [← packWord_fields_of_and h rfl rfl, hf2, hf3]

/-- The rows without operands. -/
theorem packWord_of_and_zero (op : BitVec 4) (h : w &&& 0xFFFFFFFF = packWord op 0 0 0) :
    packWord op 0 0 0 = w :=
  h.symm.trans BitVec.and_allOnes

/-- The reserved rows. -/
theorem append_of_and_reserved (op : BitVec 4) (h : w &&& 0x0000000F = (0 : BitVec 28) ++ op) :
    w.extractLsb' 4 28 ++ op = w := by
  have hop : opField w = op := (extractLsb'_eq_of_and_eq h rfl).trans (opField_append ..)
  exact append_of_opField hop

end Masked

end Sys2Proof
end

section
/-! Decoding and encoding (R101–R108) as one relation: a word decodes to a command exactly when it is
that command's encoding. -/

namespace Sys2Proof

/-- R103: a field that must be 0 is 0 in every word that decodes. -/
theorem requireZero_eq_ok {f : Operand} {r : Except DecodeError Instr} {i : Instr} :
    requireZero f r = .ok i ↔ f = 0 ∧ r = .ok i := by
  unfold requireZero
  split
  · exact ⟨fun h => ⟨‹_›, h⟩, And.right⟩
  · exact ⟨nofun, fun h => absurd h.1 ‹_›⟩

/-- R105: a command that the case split on OP answers is packed from that OP and its fields. -/
theorem encode_of_decodeOp {op : BitVec 4} {f1 f2 f3 : Operand} {i : Instr}
    (h : decodeOp op.toNat f1 f2 f3 = .ok i) : encode i = packWord op f1 f2 f3 := by
  unfold decodeOp at h
  split at h
  case h_15 => cases h
  all_goals
    rename_i hop
    obtain ⟨_, rfl⟩ := BitVec.toNat_eq_nat.1 hop
    simp only [requireZero_eq_ok, Except.ok.injEq] at h
  -- the rows by their number of operands: three, two, one, none
  case h_11 => subst h; rfl
  case h_8 | h_9 | h_10 | h_12 | h_14 => obtain ⟨rfl, rfl⟩ := h; rfl
  case h_13 => obtain ⟨rfl, rfl, rfl⟩ := h; rfl
  all_goals obtain ⟨rfl, rfl, rfl, rfl⟩ := h; rfl

/-- R104: a word below the reserved rows, packed with RSV 0, decodes by its OP. -/
theorem decode_packWord {op : BitVec 4} (hop : op.toNat < 14) (f1 f2 f3 : Operand) :
    decode (packWord op f1 f2 f3) = decodeOp op.toNat f1 f2 f3 := by
  unfold decode
  rw [opField_packWord]
  split
  · omega
  · omega
  · simp

/-- R101, R104: by constructor; below the reserved rows `decode_packWord` reads the fields back. -/
theorem decode_encode (i : Instr) : decode (encode i) = .ok i := by
  cases i with
  | reservedE rest => simp [encode, decode]
  | reservedF rest => simp [encode, decode]
  | _ => exact decode_packWord (by decide) _ _ _

/-- R103, R105: by the branches of the decoder, none of which drops a bit of the word. -/
theorem encode_decode {w : Word} {i : Instr} (h : decode w = .ok i) : encode i = w := by
  unfold decode at h
  split at h
  next hop => obtain rfl := Except.ok.inj h; exact append_of_opField (BitVec.toNat_eq_nat.1 hop).2
  next hop => obtain rfl := Except.ok.inj h; exact append_of_opField (BitVec.toNat_eq_nat.1 hop).2
  next =>
    split at h
    next hrsv => rw [encode_of_decodeOp h, packWord_fields hrsv]
    next => cases h

theorem decode_eq_ok_iff {w : Word} {i : Instr} : decode w = .ok i ↔ encode i = w :=
  ⟨encode_decode, fun h => h ▸ decode_encode i⟩

/-- Settles O2, by `decode_encode`. -/
theorem decodeOfEncode : Obligations.DecodeOfEncode := decode_encode

/-- Settles O3, by `encode_decode`. -/
theorem encodeOfDecode : Obligations.EncodeOfDecode := fun _ _ => encode_decode

/-! ### Match and mask -/

section Rows

open Laws.RowMatch (Statement mask pattern)

/-- R104: each command's own word carries its row's match under its row's mask. -/
theorem rowMatch (i : Instr) : Statement i := by
  cases i with
  | check => exact Laws.RowMatch.check
  | lap => exact Laws.RowMatch.lap
  | nl => exact Laws.RowMatch.nl
  | sac => exact Laws.RowMatch.sac
  | dap => exact Laws.RowMatch.dap
  | bicsac => exact Laws.RowMatch.bicsac
  | bicnl => exact Laws.RowMatch.bicnl
  | walsh a b => exact Laws.RowMatch.walsh a b
  | ddt dx dy => exact Laws.RowMatch.ddt dx dy
  | flip i j => exact Laws.RowMatch.flip i j
  | biccorr i j k => exact Laws.RowMatch.biccorr i j k
  | bicnlp j k => exact Laws.RowMatch.bicnlp j k
  | popcnt x => exact Laws.RowMatch.popcnt x
  | bitdot a b => exact Laws.RowMatch.bitdot a b
  | reservedE rest => exact Laws.RowMatch.reservedE rest
  | reservedF rest => exact Laws.RowMatch.reservedF rest

/-- R104: a row is selected exactly when its command decodes, given that the row's match determines the
word up to the operands it leaves free. -/
theorem select_iff {w : Word} (i : Instr) (h : w &&& mask i = pattern i → encode i = w) :
    w &&& mask i = pattern i ↔ decode w = .ok i := by
  refine ⟨fun hw => decode_eq_ok_iff.2 (h hw), fun hd => ?_⟩
  have hrow : encode i &&& mask i = pattern i := rowMatch i
  rwa [encode_decode hd] at hrow

/-- Settles O4, row by row: `select_iff` with the row's number of operands. -/
theorem decodeSelectsByMatchAndMask : Obligations.DecodeSelectsByMatchAndMask := by
  unfold Obligations.DecodeSelectsByMatchAndMask
  intro w
  exact ⟨select_iff .check (packWord_of_and_zero 0),
    select_iff .lap (packWord_of_and_zero 1),
    select_iff .nl (packWord_of_and_zero 2),
    select_iff .sac (packWord_of_and_zero 3),
    select_iff .dap (packWord_of_and_zero 4),
    select_iff .bicsac (packWord_of_and_zero 5),
    select_iff .bicnl (packWord_of_and_zero 6),
    select_iff (.walsh _ _) (packWord_of_and_two 7),
    select_iff (.ddt _ _) (packWord_of_and_two 8),
    select_iff (.flip _ _) (packWord_of_and_two 9),
    select_iff (.biccorr _ _ _) (packWord_of_and_three 10),
    select_iff (.bicnlp _ _) (packWord_of_and_two 11),
    select_iff (.popcnt _) (packWord_of_and_one 12),
    select_iff (.bitdot _ _) (packWord_of_and_two 13),
    select_iff (.reservedE _) (append_of_and_reserved 14),
    select_iff (.reservedF _) (append_of_and_reserved 15)⟩

end Rows

/-- Settles O1: each of the words is the encoding of its command. -/
theorem specWordsDecode : Obligations.SpecWordsDecode := by
  unfold Obligations.SpecWordsDecode
  exact ⟨decode_encode .check, decode_encode .lap, decode_encode .nl, decode_encode .sac,
    decode_encode .dap, decode_encode .bicsac, decode_encode .bicnl, decode_encode (.walsh 1 72),
    decode_encode (.ddt 1 31), decode_encode (.flip 1 2), decode_encode (.biccorr 0 1 2),
    decode_encode (.bicnlp 2 1), decode_encode (.popcnt 0xA5), decode_encode (.bitdot 0x0F 0x03),
    decode_encode (.reservedE 0), decode_encode (.reservedF 0)⟩

end Sys2Proof
end

section
/-! The host agent's turn (R109), and the completion of the reserved rows (R106, R281). -/

namespace Sys2Proof.Machine

/-- Settles O23: the outcome of a reserved row is IllegalCommand, over every snapshot. -/
theorem reservedOpcodesCompleteIllegal : Obligations.ReservedOpcodesCompleteIllegal := by
  unfold Obligations.ReservedOpcodesCompleteIllegal
  exact fun s rest => ⟨exec_eq_complete (.reservedE rest) s, exec_eq_complete (.reservedF rest) s⟩

/-- R30: on the host's turn, scheduled (log 1) or with none left and no command in flight (log 2), the
step is the host's. -/
theorem step_hostTurn {s : State} {ts : List Turn}
    (h : s.schedule = .host :: ts ∨ (s.schedule = [] ∧ ts = [] ∧ s.busy = false)) :
    step s = .next (s.withSchedule ts).hostTurn := by
  rcases h with h | ⟨h, rfl, hb⟩
  · simp [step, oneStep, nextTurn, takeTurn, h]
  · simp [step, oneStep, nextTurn, takeTurn, h, hb]

section HostTurn

variable {s : State} (ts : List Turn)

theorem hostTurn_of_current {c : HostStmt} (h : s.host.current = some c) :
    (s.withSchedule ts).hostTurn = (s.withSchedule ts).hostStmt c := by
  simp [State.hostTurn, h]

/-- R333: an ended program does nothing more. -/
theorem hostTurn_of_ended (h : s.host.current = none) :
    (s.withSchedule ts).hostTurn = s.withSchedule ts := by
  simp [State.hostTurn, h]

end HostTurn

/-- R109: `rd` answers on the bus as `access_readTransfer` says, and assigns what prdata shows. -/
theorem hostStmt_rd (off : Offset) (t : Nat) (s : State) (v : Word)
    (hv : v = if off.toNat % 4 = 0 ∧ s.rstN = true then s.readReg off else 0) :
    s.hostStmt (.rd off t) = { s with
      host := s.host.assign t v,
      bus := if off.toNat % 4 = 0 then .readData v else .readError } := by
  subst hv
  rw [State.hostStmt, access_readTransfer]
  by_cases ha : off.toNat % 4 = 0
  · simp only [ha, true_and, if_true]; rfl
  · simp only [ha, false_and, if_false]; rfl

/-- R109: `bnz` changes where the host goes on, and nothing else. -/
theorem branch_eq (t : Nat) (mask : Word) (label : Nat) (h : HostState) :
    h.branch t mask label = { h with pc := if h.var t &&& mask ≠ 0 then label else h.pc + 1 } := by
  unfold HostState.branch
  split <;> simp [HostState.advance, *]

/-- Settles O48: the step is the host's turn, and the turn is its next statement, case by case. -/
theorem hostStatementsAct : Obligations.HostStatementsAct := by
  unfold Obligations.HostStatementsAct
  intro s ts h
  rw [step_hostTurn h]
  refine ⟨fun off v hc => ?_, fun off t v hc hv => ⟨?_, ?_, fun u hu => ?_, rfl, rfl, rfl⟩,
    fun t mask label hc => ?_, fun hc => ⟨?_, rfl⟩, fun hc => ?_⟩
  · rw [hostTurn_of_current ts hc]; rfl
  · rw [hostTurn_of_current ts hc, hostStmt_rd off t (s.withSchedule ts) v hv]; rfl
  · rw [HostState.var_assign, if_pos rfl]
  · rw [HostState.var_assign, if_neg hu]
  · rw [hostTurn_of_current ts hc, State.hostStmt, branch_eq]; rfl
  · rw [hostTurn_of_current ts hc]; rfl
  · rw [hostTurn_of_ended ts hc]; rfl

end Sys2Proof.Machine
end

section
/-! The command lifecycle (R131–R138): acceptance, drop, the engine's turn, what a completion keeps, and
the form of an outcome (R47, R280). -/

namespace Sys2Proof.Machine

open Sys2Proof.Safety

/-! ### Acceptance and drop -/

theorem writeReg_cmd (s : State) (w : Word) : s.writeReg 0x018 w = s.issue w := rfl

theorem issue_idle {s : State} (h : s.busy = false) (w : Word) : s.issue w = s.accept w := by
  simp [State.issue, h]

theorem issue_busy {s : State} (h : s.busy = true) (w : Word) : s.issue w = s.dropCommand := by
  simp [State.issue, h]

/-- Settles O30: the scheduled write is an acceptance. -/
theorem commandAccepted : Obligations.CommandAccepted := by
  unfold Obligations.CommandAccepted
  intro s w ts h hr hb
  rw [step_scheduled_write h rfl, if_pos hr, writeReg_cmd, issue_idle hb]
  rfl

/-- Settles O31: the scheduled write is a drop. -/
theorem commandDropped : Obligations.CommandDropped := by
  unfold Obligations.CommandDropped
  intro s w ts h hr hb
  rw [step_scheduled_write h rfl, if_pos hr, writeReg_cmd, issue_busy hb]
  rfl

/-! ### The engine's turn -/

/-- Log 1, log 2: the turn is the engine's exactly when `engineMoves` says so. -/
theorem nextTurn_eq_engine_iff (s : State) : nextTurn s = .engine ↔ engineMoves s = true := by
  unfold nextTurn engineMoves
  cases s.schedule with
  | nil => cases s.busy <;> simp
  | cons t ts => cases t <;> simp

theorem step_engine {s : State} (h : nextTurn s = .engine) :
    step s = engineTurn (s.withSchedule s.schedule.tail) := by
  simp [step, oneStep, takeTurn, h]

theorem engineTurn_busy {s : State} (h : s.busy = true) : engineTurn s = completion s := if_pos h

theorem engineTurn_idle {s : State} (h : s.busy = false) : engineTurn s = .next s := by
  simp [engineTurn, h]

theorem completion_of_decode {s : State} {i : Instr} (h : decode s.lastCmd = .ok i) :
    completion s = exec i s := by
  simp [completion, h]

/-- Settles O5: the engine's turn is a completion, and that of a decoded word is `exec`. -/
theorem stepRunsDecodedCommand : Obligations.StepRunsDecodedCommand := by
  unfold Obligations.StepRunsDecodedCommand
  intro s i hm hb hd
  have hbusy : (s.withSchedule s.schedule.tail).busy = true := hb
  have hdecode : decode (s.withSchedule s.schedule.tail).lastCmd = .ok i := hd
  rw [step_engine ((nextTurn_eq_engine_iff s).2 hm), engineTurn_busy hbusy,
    completion_of_decode hdecode]
  rfl

/-- Settles O6: an idle engine's turn only uses up the turn. -/
theorem engineIdleChangesNothing : Obligations.EngineIdleChangesNothing := by
  unfold Obligations.EngineIdleChangesNothing
  intro s ts h hb
  have hturn : nextTurn s = .engine := by simp [nextTurn, h]
  rw [step_engine hturn, engineTurn_idle (by simpa using hb), h]
  rfl

/-- Settles O8, by the agents that can move; an illegal word completes like any other. -/
theorem stepNeverStops : Obligations.StepNeverStops := by
  unfold Obligations.StepNeverStops
  intro s
  rcases step_cases s with ⟨_, _, e⟩ | ⟨_, _, e⟩ | ⟨_, e⟩ | ⟨_, _, e⟩ | ⟨_, _, e⟩
  case inr.inl =>
    obtain ⟨i, hi⟩ := completion_eq_outcome (s.withSchedule s.schedule.tail)
    exact ⟨_, e.trans hi⟩
  all_goals exact ⟨_, e⟩

/-! ### What a completion keeps -/

section Complete

variable (r : CmdResult) (s : State)

@[simp] theorem complete_lastCmd : (s.complete r).lastCmd = s.lastCmd := by cases r <;> rfl
@[simp] theorem complete_rstN : (s.complete r).rstN = s.rstN := by cases r <;> rfl
@[simp] theorem complete_bus : (s.complete r).bus = s.bus := by cases r <;> rfl
@[simp] theorem complete_host : (s.complete r).host = s.host := by cases r <;> rfl
@[simp] theorem complete_schedule : (s.complete r).schedule = s.schedule := by cases r <;> rfl

end Complete

/-- Settles O28: `exec` is a completion, which keeps each field by its own lemma. -/
theorem completionFrame : Obligations.CompletionFrame := by
  unfold Obligations.CompletionFrame
  intro i s t h
  rw [exec_eq_complete] at h
  obtain rfl := Host.Outcome.next.inj h
  simp

/-- Settles O9: over a valid table no check of R133 fails. -/
theorem checkResult : Obligations.CheckResult := by
  unfold Obligations.CheckResult
  intro s n ⟨⟨hpos, hmax, hlen⟩, hvalid⟩
  have hwidth : supportedWidth 1 s.snap.len.toNat = some n :=
    supportedWidth_eq_some.2 ⟨hpos, hmax, hpos, hlen⟩
  have hok : outcome .check s.snap = .ok (computeCheck n s.snap.entry) :=
    tableCommand_ok computeCheck hwidth rfl hvalid
  rw [exec_eq_complete, hok]
  rfl

/-! ### The form of an outcome -/

/-- R282–R284: a table command's error records no value but the index of a bad entry, and N is at most
256. -/
theorem tableCommand_err_aux {m : Nat} {ok : Nat → Bool} {compute : Nat → (Nat → Nat) → Triple}
    {p : Snapshot} {e : CmdError} {aux : Word} (h : tableCommand m ok compute p = .err e aux) :
    aux.toNat < 256 ∧ (e ≠ .valueOutOfRange → aux = 0) := by
  rcases tableCommand_cases m ok compute p with ⟨_, hc⟩ | ⟨n, hn, ⟨_, hc⟩ | ⟨_, x, hx, _, _, hc⟩ |
    ⟨_, _, hc⟩⟩
  · obtain ⟨rfl, rfl⟩ := CmdResult.err.inj (hc.symm.trans h)
    exact ⟨by decide, fun _ => rfl⟩
  · obtain ⟨rfl, rfl⟩ := CmdResult.err.inj (hc.symm.trans h)
    exact ⟨by decide, fun _ => rfl⟩
  · obtain ⟨rfl, rfl⟩ := CmdResult.err.inj (hc.symm.trans h)
    obtain ⟨_, hmax, _, _⟩ := supportedWidth_eq_some.1 hn
    have hbound : 2 ^ n ≤ 2 ^ 8 := Nat.pow_le_pow_right (by omega) hmax
    refine ⟨?_, fun hne => absurd rfl hne⟩
    rw [zext32, BitVec.toNat_ofNat]
    omega
  · rw [hc] at h; cases h

/-- R281–R284: an error of any command records no value but the index of a bad entry. -/
theorem outcome_err_aux {i : Instr} {p : Snapshot} {e : CmdError} {aux : Word}
    (h : outcome i p = .err e aux) : aux.toNat < 256 ∧ (e ≠ .valueOutOfRange → aux = 0) := by
  cases i with
  | popcnt _ | bitdot _ _ => cases h
  | reservedE _ | reservedF _ =>
    obtain ⟨rfl, rfl⟩ := CmdResult.err.inj h
    exact ⟨by decide, fun _ => rfl⟩
  | check | lap | nl | sac | dap | bicsac | bicnl => exact tableCommand_err_aux h
  | walsh _ _ | ddt _ _ | flip _ _ | biccorr _ _ _ | bicnlp _ _ => exact tableCommand_err_aux h

/-- R280: only the codes 1 to 4 occur. -/
theorem CmdError.code_le_four (e : CmdError) : e.code.toNat ≤ 4 := by cases e <;> decide

/-- R280: code 2 is ValueOutOfRange. -/
theorem CmdError.code_eq_two_iff (e : CmdError) : e.code = 2 ↔ e = .valueOutOfRange := by
  cases e <;> decide

theorem succeed_outcomeForm {r : Triple} (h : 1 ≤ r.den.toNat) (s : State) :
    OutcomeForm (s.succeed r) := by
  simp [OutcomeForm, h]

theorem fail_outcomeForm {e : CmdError} {aux : Word} (hlt : aux.toNat < 256)
    (hzero : e ≠ .valueOutOfRange → aux = 0) (s : State) : OutcomeForm (s.fail e aux) :=
  ⟨e.code_le_four, fun _ => ⟨rfl, rfl⟩, fun _ hne => hzero fun he => hne (e.code_eq_two_iff.2 he),
    fun _ => hlt, fun _ h0 => absurd h0 e.code_ne_zero⟩

/-- R47, R138, R280: every completion establishes the form, whatever stood there before. -/
theorem complete_outcomeForm (i : Instr) (p : Snapshot) (s : State) :
    OutcomeForm (s.complete (outcome i p)) := by
  rcases complete_cases (outcome i p) s with ⟨r, hr, e⟩ | ⟨c, aux, hr, e⟩
  · rw [e]; exact succeed_outcomeForm (outcome_ok_den hr) s
  · obtain ⟨hlt, hzero⟩ := outcome_err_aux hr
    rw [e]; exact fail_outcomeForm hlt hzero s

/-- R41, R43, R47: a write keeps the form: it moves no result, sets no DONE, and an acceptance clears
DONE with ERRCODE. -/
theorem WriteEffect.outcomeForm {s t : State} {off : Offset} {v : Word} (h : WriteEffect s off v t)
    (hs : OutcomeForm s) : OutcomeForm t := by
  cases h with
  | status =>
    obtain ⟨hcode, hvalue, haux, hindex, hden⟩ := hs
    refine ⟨hcode, hvalue, haux, hindex, fun hdone => hden ?_⟩
    rw [State.writeStatus_done, Bool.and_eq_true] at hdone
    exact hdone.1
  | accepted => simp [OutcomeForm]
  | ignored | ctrl | dropped | tableDropped | lengthStored | entryStored => exact hs

/-- Settles O54, by the four effects of a step; a completion establishes the form anew. -/
theorem stepKeepsOutcomeForm : Obligations.StepKeepsOutcomeForm := by
  unfold Obligations.StepKeepsOutcomeForm
  intro s t hs h
  cases stepEffect_of_step h with
  | write b g hw he => exact he.outcomeForm hs
  | quiet => exact hs
  | complete i => exact complete_outcomeForm i s.snap s
  | reset l hno hres =>
    obtain ⟨_, _, _, _, hdone, herr, _⟩ := stepResets_registers hres h
    simp [OutcomeForm, hdone, herr]

end Sys2Proof.Machine
end

section
/-! What an outcome reads (R141): nothing of a snapshot but its length and its entries below it. -/

namespace Sys2Proof.Machine

/-! ### Reductions of functions that agree -/

theorem sumBelow_congr {α : Type} [AddCommMonoid α] {f g : Nat → α} {N : Nat}
    (h : ∀ x < N, f x = g x) : sumBelow f N = sumBelow g N := by
  rw [sumBelow_eq_sum, sumBelow_eq_sum]
  exact Finset.sum_congr rfl fun x hx => h x (Finset.mem_range.1 hx)

theorem countBelow_congr {p q : Nat → Bool} {N : Nat} (h : ∀ x < N, p x = q x) :
    countBelow p N = countBelow q N :=
  sumBelow_congr fun x hx => by rw [h x hx]

theorem maxBelow_congr {f g : Nat → Nat} {N : Nat} (h : ∀ x < N, f x = g x) :
    maxBelow f N = maxBelow g N := by
  induction N with
  | zero => rfl
  | succ N ih =>
    rw [maxBelow, maxBelow, ih fun x hx => h x (by omega), h N (by omega)]

theorem firstBelow_congr {p q : Nat → Bool} {N : Nat} (h : ∀ x < N, p x = q x) :
    firstBelow p N = firstBelow q N := by
  induction N with
  | zero => rfl
  | succ N ih =>
    rw [firstBelow, firstBelow, ih fun x hx => h x (by omega), h N (by omega)]

/-! ### The metrics of tables that agree below N -/

section Metrics

variable {n : Nat} {S S' : Nat → Nat} (h : ∀ x < 2 ^ n, S x = S' x)

include h

theorem walsh_congr (a b : Nat) : walsh (2 ^ n) S a b = walsh (2 ^ n) S' a b :=
  sumBelow_congr fun x hx => by rw [h x hx]

theorem rowMax_congr (b : Nat) : rowMax (2 ^ n) S b = rowMax (2 ^ n) S' b :=
  maxBelow_congr fun a _ => by rw [walsh_congr h]

theorem linearMax_congr : linearMax (2 ^ n) S = linearMax (2 ^ n) S' :=
  maxBelow_congr fun b _ => rowMax_congr h (b + 1)

/-- R210, R230: a difference below N keeps an index below N. -/
theorem entry_xor_congr {d x : Nat} (hd : d < 2 ^ n) (hx : x < 2 ^ n) :
    S (x ^^^ d) = S' (x ^^^ d) :=
  h _ (Nat.xor_lt_two_pow hx hd)

theorem ddtCell_congr {dx : Nat} (hdx : dx < 2 ^ n) (dy : Nat) :
    ddtCell (2 ^ n) S dx dy = ddtCell (2 ^ n) S' dx dy :=
  countBelow_congr fun x hx => by rw [h x hx, entry_xor_congr h hdx hx]

theorem differentialMax_congr : differentialMax (2 ^ n) S = differentialMax (2 ^ n) S' :=
  maxBelow_congr fun d hd => maxBelow_congr fun dy _ => ddtCell_congr h (by omega) dy

theorem changeVector_congr {i x : Nat} (hi : i < n) (hx : x < 2 ^ n) :
    changeVector S i x = changeVector S' i x := by
  have hbit : 1 <<< i < 2 ^ n := by
    rw [Nat.one_shiftLeft]; exact Nat.pow_lt_pow_right (by omega) hi
  rw [changeVector, changeVector, h x hx, entry_xor_congr h hbit hx]

theorem flipCount_congr {i : Nat} (hi : i < n) (j : Nat) :
    flipCount (2 ^ n) S i j = flipCount (2 ^ n) S' i j :=
  sumBelow_congr fun x hx => by rw [changeVector_congr h hi hx]

theorem avalancheTotal_congr : avalancheTotal n S = avalancheTotal n S' :=
  sumBelow_congr fun _ hi => sumBelow_congr fun j _ => flipCount_congr h hi j

theorem agreements_congr {i : Nat} (hi : i < n) (j k : Nat) :
    agreements (2 ^ n) S i j k = agreements (2 ^ n) S' i j k :=
  countBelow_congr fun x hx => by rw [xorFilter, xorFilter, changeVector_congr h hi hx]

theorem correlation_congr {i : Nat} (hi : i < n) (j k : Nat) :
    correlation (2 ^ n) S i j k = correlation (2 ^ n) S' i j k := by
  rw [correlation, correlation, agreements_congr h hi]

theorem correlationTotal_congr : correlationTotal n S = correlationTotal n S' :=
  sumBelow_congr fun i hi => by simp only [correlation_congr h hi]

theorem pairNonlinearity_congr (j k : Nat) :
    pairNonlinearity n S j k = pairNonlinearity n S' j k := by
  rw [pairNonlinearity, pairNonlinearity, pairMax, pairMax, rowMax_congr h]

theorem worstPair_congr : worstPair n S = worstPair n S' := by
  simp only [worstPair, pairNonlinearity_congr h]

end Metrics

/-! ### Commands -/

/-- A command's result reads no entry at or above N, as long as its operands are in range (R136). -/
def ReadsBelow (ok : Nat → Bool) (compute : Nat → (Nat → Nat) → Triple) : Prop :=
  ∀ n S S', ok n = true → (∀ x < 2 ^ n, S x = S' x) → compute n S = compute n S'

theorem readsBelow_check : ReadsBelow noOperands computeCheck := fun _ _ _ _ _ => rfl

theorem readsBelow_lap : ReadsBelow noOperands computeLap := fun n S S' _ h => by
  rw [computeLap, computeLap, linearMax_congr h]

theorem readsBelow_nl : ReadsBelow noOperands computeNl := fun n S S' _ h => by
  rw [computeNl, computeNl, linearMax_congr h]

theorem readsBelow_sac : ReadsBelow noOperands computeSac := fun n S S' _ h => by
  rw [computeSac, computeSac, avalancheTotal_congr h]

theorem readsBelow_dap : ReadsBelow noOperands computeDap := fun n S S' _ h => by
  rw [computeDap, computeDap, differentialMax_congr h]

theorem readsBelow_bicsac : ReadsBelow noOperands computeBicsac := fun n S S' _ h => by
  rw [computeBicsac, computeBicsac, correlationTotal_congr h]

theorem readsBelow_bicnl : ReadsBelow noOperands computeBicnl := fun n S S' _ h => by
  rw [computeBicnl, computeBicnl, worstPair_congr h]

theorem readsBelow_walsh (a b : Operand) :
    ReadsBelow (twoMasksOk a b) (computeWalsh a.toNat b.toNat) := fun n S S' _ h => by
  rw [computeWalsh, computeWalsh, walsh_congr h]

/-- R214: the input difference is in range, so that no entry at or above N is read. -/
theorem readsBelow_ddt (dx dy : Operand) :
    ReadsBelow (twoMasksOk dx dy) (computeDdt dx.toNat dy.toNat) := fun n S S' hok h => by
  simp only [twoMasksOk, maskOk, Bool.and_eq_true, decide_eq_true_eq] at hok
  rw [computeDdt, computeDdt, ddtCell_congr h hok.1]

/-- R235: the flipped input bit is in range. -/
theorem readsBelow_flip (i j : Operand) :
    ReadsBelow (twoBitsOk i j) (computeFlip i.toNat j.toNat) := fun n S S' hok h => by
  simp only [twoBitsOk, bitOk, Bool.and_eq_true, decide_eq_true_eq] at hok
  rw [computeFlip, computeFlip, flipCount_congr h hok.1]

/-- R253: the flipped input bit is in range. -/
theorem readsBelow_biccorr (i j k : Operand) :
    ReadsBelow (bitAndPairOk i j k) (computeBiccorr i.toNat j.toNat k.toNat) :=
  fun n S S' hok h => by
    simp only [bitAndPairOk, bitOk, Bool.and_eq_true, decide_eq_true_eq] at hok
    rw [computeBiccorr, computeBiccorr, correlation_congr h hok.1, agreements_congr h hok.1]

theorem readsBelow_bicnlp (j k : Operand) :
    ReadsBelow (bitPairOk j k) (computeBicnlp j.toNat k.toNat) := fun n S S' _ h => by
  rw [computeBicnlp, computeBicnlp, pairNonlinearity_congr h, pairMax, pairMax, rowMax_congr h]

/-- R141: two snapshots that no command can tell apart. A supported length is at most 256, so no
check and no result reads an entry from there on. -/
def Snapshot.AgreesWith (p p' : Snapshot) : Prop :=
  p.len = p'.len ∧ ∀ x < p.len.toNat, x < 256 → p.entry x = p'.entry x

/-- R141: the checks and the result of a table command are the same over snapshots that agree. -/
theorem tableCommand_congr {ok : Nat → Bool} {compute : Nat → (Nat → Nat) → Triple}
    (hc : ReadsBelow ok compute) (m : Nat) {p p' : Snapshot} (h : p.AgreesWith p') :
    tableCommand m ok compute p = tableCommand m ok compute p' := by
  obtain ⟨hlen, hentry⟩ := h
  unfold tableCommand
  rw [← hlen]
  cases hw : supportedWidth m p.len.toNat with
  | none => rfl
  | some n =>
    obtain ⟨_, hmax, _, hN⟩ := supportedWidth_eq_some.1 hw
    have hbound : 2 ^ n ≤ 2 ^ 8 := Nat.pow_le_pow_right (by omega) hmax
    have hbelow : ∀ x < 2 ^ n, p.entry x = p'.entry x :=
      fun x hx => hentry x (hN ▸ hx) (by omega)
    have hfirst := firstBelow_congr (p := fun x => decide (2 ^ n ≤ p.entry x))
      (q := fun x => decide (2 ^ n ≤ p'.entry x)) fun x hx => by rw [hbelow x hx]
    cases hok : ok n with
    | false => simp [hok]
    | true => simp only [hok, if_true, hfirst, hc n _ _ hok hbelow]

/-- R94, R141: `exec` is a function of (w, N, T). -/
theorem outcome_congr (i : Instr) {p p' : Snapshot} (h : p.AgreesWith p') :
    outcome i p = outcome i p' := by
  cases i with
  | check => exact tableCommand_congr readsBelow_check 1 h
  | lap => exact tableCommand_congr readsBelow_lap 1 h
  | nl => exact tableCommand_congr readsBelow_nl 1 h
  | sac => exact tableCommand_congr readsBelow_sac 1 h
  | dap => exact tableCommand_congr readsBelow_dap 1 h
  | bicsac => exact tableCommand_congr readsBelow_bicsac 2 h
  | bicnl => exact tableCommand_congr readsBelow_bicnl 2 h
  | walsh a b => exact tableCommand_congr (readsBelow_walsh a b) 1 h
  | ddt dx dy => exact tableCommand_congr (readsBelow_ddt dx dy) 1 h
  | flip i j => exact tableCommand_congr (readsBelow_flip i j) 1 h
  | biccorr i j k => exact tableCommand_congr (readsBelow_biccorr i j k) 2 h
  | bicnlp j k => exact tableCommand_congr (readsBelow_bicnlp j k) 2 h
  | popcnt _ | bitdot _ _ | reservedE _ | reservedF _ => rfl

/-- R137, R138: the triple and the code that a completion leaves are those of its outcome alone. -/
theorem complete_results_congr (r : CmdResult) (s s' : State) :
    (s.complete r).resNum = (s'.complete r).resNum ∧
      (s.complete r).resDen = (s'.complete r).resDen ∧
      (s.complete r).resAux = (s'.complete r).resAux ∧
      (s.complete r).errcode = (s'.complete r).errcode := by
  cases r <;> exact ⟨rfl, rfl, rfl, rfl⟩

/-- Settles O29: the two outcomes are one by `outcome_congr`, and a completion writes its outcome. -/
theorem outcomeDependsOnlyOnSnapshot : Obligations.OutcomeDependsOnlyOnSnapshot := by
  unfold Obligations.OutcomeDependsOnlyOnSnapshot
  intro i s s' t t' hlen hentry h h'
  rw [exec_eq_complete] at h h'
  obtain rfl := Host.Outcome.next.inj h
  obtain rfl := Host.Outcome.next.inj h'
  rw [outcome_congr i (p := s.snap) (p' := s'.snap) ⟨hlen, hentry⟩]
  exact complete_results_congr _ s s'

end Sys2Proof.Machine
end

section
/-! Bit algebra (R160–R166): the machine's popcount and parity as R160 and R161 write them, the laws
of R164, and the two table-free commands. -/

namespace Sys2Proof.Machine

open Sys2Proof.Safety

/-! ### One bit -/

theorem getBit_eq_bit (x i : Nat) : getBit x i = bit x i := getBit_eq x i

/-- The half adder: XOR is the sum of two bits, AND its carry. -/
theorem getBit_xor_add_and (x y i : Nat) :
    getBit (x ^^^ y) i + 2 * getBit (x &&& y) i = getBit x i + getBit y i := by
  simp only [getBit_eq, Nat.testBit_xor, Nat.testBit_and]
  cases x.testBit i <;> cases y.testBit i <;> rfl

/-- Masking with `e_j` leaves bit j alone (R162). -/
theorem getBit_two_pow_and (j v i : Nat) :
    getBit (2 ^ j &&& v) i = if j = i then getBit v j else 0 := by
  simp only [getBit_eq, Nat.testBit_and, Nat.testBit_two_pow]
  by_cases h : j = i
  · simp [h]
  · simp [h]

/-! ### popcount -/

theorem popcount_eq_sum (x : Nat) : popcount x = ∑ t ∈ Finset.range 32, getBit x t :=
  sumBelow_eq_sum _ _

theorem popcount_eq_ones (x : Nat) : popcount x = ones x := by
  simp only [popcount_eq_sum, getBit_eq_bit, ones]

/-- R160: a value of n bits has at most n ones. -/
theorem ones_le_of_lt_two_pow {x n : Nat} (h : x < 2 ^ n) : ones x ≤ n := by
  have hcard : ones x = ((Finset.range 32).filter fun t => x.testBit t = true).card := by
    rw [Finset.card_filter]; rfl
  have hbelow : ((Finset.range 32).filter fun t => x.testBit t = true) ⊆ Finset.range n := by
    intro t ht
    obtain ⟨_, hbit⟩ := Finset.mem_filter.1 ht
    exact Finset.mem_range.2 ((Nat.pow_lt_pow_iff_right (by omega)).1
      ((Nat.ge_two_pow_of_testBit hbit).trans_lt h))
  calc ones x = _ := hcard
    _ ≤ (Finset.range n).card := Finset.card_le_card hbelow
    _ = n := Finset.card_range n

/-- R164: the half adder of every bit, summed. -/
theorem popcount_xor_add_and (x y : Nat) :
    popcount (x ^^^ y) + 2 * popcount (x &&& y) = popcount x + popcount y := by
  simp only [popcount_eq_sum, Finset.mul_sum, ← Finset.sum_add_distrib, getBit_xor_add_and]

theorem popcount_zero : popcount 0 = 0 := rfl

/-- Only bit j of `v` is left to count. -/
theorem popcount_two_pow_and {j : Nat} (hj : j < 32) (v : Nat) :
    popcount (2 ^ j &&& v) = getBit v j := by
  simp only [popcount_eq_sum, getBit_two_pow_and, Finset.sum_ite_eq, Finset.mem_range, hj, if_true]

/-! ### bitDot -/

theorem bitDot_eq_dot (a b : Nat) : bitDot a b = dot a b := by
  rw [bitDot, dot, popcount_eq_ones]

theorem bitDot_comm (a b : Nat) : bitDot a b = bitDot b a := by
  rw [bitDot, bitDot, Nat.and_comm]

theorem bitDot_zero_right (a : Nat) : bitDot a 0 = 0 := by
  rw [bitDot, Nat.and_zero, popcount_zero]

/-- R164: linearity over GF(2); the carries of `popcount_xor_add_and` are even. -/
theorem bitDot_xor_right (a x y : Nat) : bitDot a (x ^^^ y) = bitDot a x ^^^ bitDot a y := by
  have hcarry := popcount_xor_add_and (a &&& x) (a &&& y)
  calc bitDot a (x ^^^ y)
      = popcount ((a &&& x) ^^^ (a &&& y)) % 2 := by rw [bitDot, Nat.and_xor_distrib_left]
    _ = (popcount (a &&& x) + popcount (a &&& y)) % 2 := by omega
    _ = (popcount (a &&& x) ^^^ popcount (a &&& y)) % 2 := Nat.xor_mod_two_eq.symm
    _ = bitDot a x ^^^ bitDot a y := Nat.xor_mod_two_pow (n := 1)

/-- `e_j` picks bit j. -/
theorem bitDot_two_pow {j : Nat} (hj : j < 32) (v : Nat) : bitDot (2 ^ j) v = getBit v j := by
  rw [bitDot, popcount_two_pow_and hj, Nat.mod_eq_of_lt (getBit_lt_two v j)]

/-- Two different bits do not overlap, so that their OR is their XOR. -/
theorem two_pow_or_eq_xor {j k : Nat} (h : j ≠ k) : 2 ^ j ||| 2 ^ k = 2 ^ j ^^^ 2 ^ k := by
  refine Nat.eq_of_testBit_eq fun i => ?_
  simp only [Nat.testBit_or, Nat.testBit_xor, Nat.testBit_two_pow]
  by_cases hj : j = i
  · simp [hj, show k ≠ i from fun hk => h (hj.trans hk.symm)]
  · simp [hj]

/-- R164, R251: the mask of two bits gives their XOR, by linearity. -/
theorem bitDot_pair {j k : Nat} (hj : j < 32) (hk : k < 32) (h : j ≠ k) (v : Nat) :
    bitDot (2 ^ j ||| 2 ^ k) v = getBit v j ^^^ getBit v k := by
  rw [two_pow_or_eq_xor h, bitDot_comm, bitDot_xor_right, bitDot_comm v, bitDot_comm v,
    bitDot_two_pow hj, bitDot_two_pow hk]

/-- Settles O57: each law of R164 by its lemma. -/
theorem bitAlgebraLaws : Obligations.BitAlgebraLaws := by
  unfold Obligations.BitAlgebraLaws
  refine ⟨fun a => ⟨bitDot_zero_right a, ?_⟩, bitDot_comm, bitDot_xor_right, ?_,
    popcount_xor_add_and⟩
  · rw [bitDot_comm, bitDot_zero_right]
  · intro j k v hj hk h
    exact bitDot_pair hj hk h v

/-! ### POPCNT and BITDOT -/

/-- Settles O21: the command completes with the machine's popcount, which is R160's sum. -/
theorem popcntResult : Obligations.PopcntResult := by
  unfold Obligations.PopcntResult
  intro s x
  refine ⟨ones_le_of_lt_two_pow x.isLt, ?_⟩
  rw [exec_eq_complete, ← popcount_eq_ones]
  rfl

/-- Settles O22: the command completes with the machine's parity and popcount, which are those of R160
and R161. -/
theorem bitdotResult : Obligations.BitdotResult := by
  unfold Obligations.BitdotResult
  intro s a b
  rw [exec_eq_complete, ← bitDot_eq_dot, ← popcount_eq_ones]
  exact ⟨bitDot_lt_two _ _, rfl⟩

end Sys2Proof.Machine
end

section
/-! The Walsh family (R180–R190): the machine's Walsh value as R180 writes it, the laws of R181, the
linear maximum of R182, and the commands LAP, NL and WALSH. -/

namespace Sys2Proof.Machine

open Sys2Proof.Safety

/-! ### Signs -/

/-- R163, R180: the sign of an XOR is 1 for bits that agree and −1 for bits that differ. -/
theorem sgn_xor {u v : Nat} (hu : u < 2) (hv : v < 2) :
    sgn (u ^^^ v) = if u = v then 1 else -1 := by
  interval_cases u <;> interval_cases v <;> rfl

/-- R164: the XOR with `e_i` of an input that the mask reads at bit i changes the parity's sign. -/
theorem sgn_bitDot_xor_two_pow {m i : Nat} (hi : i < 32) (hm : m.testBit i = true) (x : Nat) :
    sgn (bitDot m (x ^^^ 2 ^ i)) = -sgn (bitDot m x) := by
  have hbit : bitDot m (2 ^ i) = 1 := by
    rw [bitDot_comm, bitDot_two_pow hi, getBit_eq, if_pos hm]
  have hlt := bitDot_lt_two m x
  rw [bitDot_xor_right, hbit]
  interval_cases bitDot m x <;> rfl

/-- A non-zero mask of n bits has parity 1 on half of the inputs below `2^n`: the inputs pair off under
the XOR with one bit of the mask. -/
theorem sum_sgn_bitDot {n m : Nat} (hn : n ≤ 8) (hm : m < 2 ^ n) :
    ∑ x ∈ Finset.range (2 ^ n), sgn (bitDot m x) = if m = 0 then 2 ^ n else 0 := by
  by_cases h0 : m = 0
  · subst h0
    simp [bitDot_comm 0, bitDot_zero_right, sgn]
  · obtain ⟨i, hi⟩ := Nat.exists_testBit_of_ne_zero h0
    have hpow : 2 ^ i < 2 ^ n := (Nat.ge_two_pow_of_testBit hi).trans_lt hm
    have hlt : i < n := (Nat.pow_lt_pow_iff_right (by omega)).1 hpow
    have hflip := sgn_bitDot_xor_two_pow (by omega : i < 32) hi
    rw [if_neg h0]
    refine Finset.sum_involution (fun x _ => x ^^^ 2 ^ i) (fun x _ => ?_) (fun x _ _ hx => ?_)
      (fun x hx => ?_) (fun x _ => Nat.xor_xor_cancel_right x _)
    · rw [hflip, add_neg_cancel]
    · have hself := hflip x
      rw [hx, sgn] at hself
      omega
    · exact Finset.mem_range.2 (Nat.xor_lt_two_pow (Finset.mem_range.1 hx) hpow)

/-! ### The Walsh value -/

theorem walsh_eq_sum (N : Nat) (S : Nat → Nat) (a b : Nat) :
    walsh N S a b =
      ∑ x ∈ Finset.range N, if bitDot b (S x) = bitDot a x then (1 : Int) else -1 := by
  rw [walsh, sumBelow_eq_sum]
  exact Finset.sum_congr rfl fun x _ => sgn_xor (bitDot_lt_two _ _) (bitDot_lt_two _ _)

theorem walsh_eq_W (n : Nat) (S : Nat → Nat) (a b : Nat) : walsh (2 ^ n) S a b = W n S a b := by
  simp only [walsh_eq_sum, bitDot_eq_dot, W]

/-- `D(a, b)`, the number of disagreements (R181). -/
def disagreements (N : Nat) (S : Nat → Nat) (a b : Nat) : Nat :=
  ((Finset.range N).filter fun x => bitDot b (S x) ≠ bitDot a x).card

theorem disagreements_le (N : Nat) (S : Nat → Nat) (a b : Nat) : disagreements N S a b ≤ N :=
  (Finset.card_filter_le _ _).trans_eq (Finset.card_range N)

/-- R181, the agreement form: a disagreement costs the sum 2. -/
theorem walsh_eq_sub_disagreements (N : Nat) (S : Nat → Nat) (a b : Nat) :
    walsh N S a b = N - 2 * (disagreements N S a b : Int) := by
  have hterm : ∀ x, (if bitDot b (S x) = bitDot a x then (1 : Int) else -1) =
      1 - 2 * if bitDot b (S x) ≠ bitDot a x then 1 else 0 := fun x => by
    by_cases h : bitDot b (S x) = bitDot a x <;> simp [h]
  simp only [walsh_eq_sum, hterm, Finset.sum_sub_distrib, ← Finset.mul_sum, disagreements,
    Finset.natCast_card_filter, Finset.sum_const, Finset.card_range, nsmul_one]

theorem abs_walsh_le (N : Nat) (S : Nat → Nat) (a b : Nat) : |walsh N S a b| ≤ N := by
  have hle := disagreements_le N S a b
  rw [walsh_eq_sub_disagreements, abs_le]
  omega

/-- R181: Walsh values share their parity with N. -/
theorem two_dvd_walsh {n : Nat} (hn : 1 ≤ n) (S : Nat → Nat) (a b : Nat) :
    2 ∣ walsh (2 ^ n) S a b := by
  have hN : 2 ∣ 2 ^ n := dvd_pow_self 2 (by omega)
  rw [walsh_eq_sub_disagreements]
  omega

/-- R181: the column b = 0 is the sum of the signs of `bitDot(a, x)`. -/
theorem walsh_zero_right {n a : Nat} (hn : n ≤ 8) (S : Nat → Nat) (ha : a < 2 ^ n) :
    walsh (2 ^ n) S a 0 = if a = 0 then 2 ^ n else 0 := by
  rw [← sum_sgn_bitDot hn ha, walsh, sumBelow_eq_sum]
  simp only [bitDot_comm 0, bitDot_zero_right, Nat.zero_xor]

/-- R181: summed over the output masks, an entry counts N where it is 0 and cancels elsewhere. -/
theorem sum_walsh_zero_left {n : Nat} {S : Nat → Nat} (hn : n ≤ 8) (hS : ∀ x < 2 ^ n, S x < 2 ^ n) :
    ∑ b ∈ Finset.range (2 ^ n), walsh (2 ^ n) S 0 b =
      2 ^ n * (((Finset.range (2 ^ n)).filter fun x => S x = 0).card : Int) := by
  have hrow : ∀ b, walsh (2 ^ n) S 0 b = ∑ x ∈ Finset.range (2 ^ n), sgn (bitDot (S x) b) := by
    intro b
    simp only [walsh, sumBelow_eq_sum, bitDot_comm 0, bitDot_zero_right, Nat.xor_zero, bitDot_comm b]
  calc ∑ b ∈ Finset.range (2 ^ n), walsh (2 ^ n) S 0 b
      = ∑ x ∈ Finset.range (2 ^ n), ∑ b ∈ Finset.range (2 ^ n), sgn (bitDot (S x) b) := by
        simp only [hrow]; exact Finset.sum_comm
    _ = ∑ x ∈ Finset.range (2 ^ n), if S x = 0 then 2 ^ n else 0 :=
        Finset.sum_congr rfl fun x hx => sum_sgn_bitDot hn (hS x (Finset.mem_range.1 hx))
    _ = _ := by simp only [Finset.natCast_card_filter, Finset.mul_sum, mul_ite, mul_one, mul_zero]

/-- Settles O58: each law of R181 by its lemma. -/
theorem walshLaws : Obligations.WalshLaws := by
  unfold Obligations.WalshLaws
  intro n S hpos hmax hS
  have hN : ((2 ^ n : Nat) : Int) = 2 ^ n := Nat.cast_pow 2 n
  refine ⟨fun a b => ?_, fun a b => ⟨?_, two_dvd_walsh hpos S a b⟩, ?_, fun a ha h0 => ?_,
    sum_walsh_zero_left hmax hS⟩
  · rw [walsh_eq_sub_disagreements, hN, disagreements]
  · rw [← hN]; exact abs_walsh_le _ S a b
  · rw [walsh_zero_right hmax S (Nat.two_pow_pos n), if_pos rfl]
  · rw [walsh_zero_right hmax S ha, if_neg h0]

/-! ### The maxima -/

theorem le_rowMax {N a : Nat} (ha : a < N) (S : Nat → Nat) (b : Nat) :
    (walsh N S a b).natAbs ≤ rowMax N S b :=
  le_maxBelow (f := fun a => (walsh N S a b).natAbs) ha

theorem rowMax_attained {N : Nat} (hN : 0 < N) (S : Nat → Nat) (b : Nat) :
    ∃ a < N, rowMax N S b = (walsh N S a b).natAbs :=
  maxBelow_attained (fun a => (walsh N S a b).natAbs) hN

/-- R181: a row's maximum is even, as the size of one of its values. -/
theorem two_dvd_rowMax {n : Nat} (hn : 1 ≤ n) (S : Nat → Nat) (b : Nat) :
    2 ∣ rowMax (2 ^ n) S b := by
  obtain ⟨a, _, hmax⟩ := rowMax_attained (Nat.two_pow_pos n) S b
  rw [hmax]
  exact Int.natAbs_dvd_natAbs.2 (two_dvd_walsh hn S a b)

theorem rowMax_le {N : Nat} (hN : 0 < N) (S : Nat → Nat) (b : Nat) : rowMax N S b ≤ N := by
  obtain ⟨a, _, hmax⟩ := rowMax_attained hN S b
  obtain ⟨hlo, hhi⟩ := abs_le.1 (abs_walsh_le N S a b)
  rw [hmax]
  omega

/-- R182: some non-zero output mask attains M; there is one, because N is at least 2 (R8). -/
theorem linearMax_attained {n : Nat} (hn : 1 ≤ n) (S : Nat → Nat) :
    ∃ b, 1 ≤ b ∧ b < 2 ^ n ∧ linearMax (2 ^ n) S = rowMax (2 ^ n) S b := by
  have hN : 2 ≤ 2 ^ n := Nat.le_self_pow (by omega) 2
  obtain ⟨b, hb, hmax⟩ :=
    maxBelow_attained (fun b => rowMax (2 ^ n) S (b + 1)) (N := 2 ^ n - 1) (by omega)
  exact ⟨b + 1, by omega, by omega, hmax⟩

theorem rowMax_le_linearMax {N b : Nat} (h1 : 1 ≤ b) (hb : b < N) (S : Nat → Nat) :
    rowMax N S b ≤ linearMax N S := by
  obtain ⟨c, rfl⟩ := Nat.exists_eq_add_of_le' h1
  exact le_maxBelow (f := fun b => rowMax N S (b + 1)) (by omega)

/-- R182: the machine's M is the greatest `|W(a, b)|` with b non-zero. -/
theorem isGreatest_linearMax {n : Nat} (hn : 1 ≤ n) (S : Nat → Nat) :
    IsGreatest (linearValues n S) (linearMax (2 ^ n) S) := by
  constructor
  · obtain ⟨b, h1, hb, hlinear⟩ := linearMax_attained hn S
    obtain ⟨a, ha, hrow⟩ := rowMax_attained (Nat.two_pow_pos n) S b
    exact ⟨a, b, ha, h1, hb, by rw [hlinear, hrow, walsh_eq_W]⟩
  · rintro m ⟨a, b, ha, h1, hb, rfl⟩
    rw [← walsh_eq_W]
    exact (le_rowMax ha S b).trans (rowMax_le_linearMax h1 hb S)

theorem two_dvd_linearMax {n : Nat} (hn : 1 ≤ n) (S : Nat → Nat) : 2 ∣ linearMax (2 ^ n) S := by
  obtain ⟨b, _, _, hmax⟩ := linearMax_attained hn S
  rw [hmax]
  exact two_dvd_rowMax hn S b

theorem linearMax_le {n : Nat} (hn : 1 ≤ n) (S : Nat → Nat) : linearMax (2 ^ n) S ≤ 2 ^ n := by
  obtain ⟨b, _, _, hmax⟩ := linearMax_attained hn S
  rw [hmax]
  exact rowMax_le (Nat.two_pow_pos n) S b

/-- R183: for an even M at most N the halving is exact, and no subtraction is cut off at 0. -/
theorem two_mul_nonlinearity_add {n M : Nat} (hn : 1 ≤ n) (heven : 2 ∣ M) (hle : M ≤ 2 ^ n) :
    2 * nonlinearity n M + M = 2 ^ n := by
  have hN : 2 * 2 ^ (n - 1) = 2 ^ n := mul_pow_sub_one (by omega) 2
  rw [nonlinearity]
  omega

theorem nonlinearity_le (n M : Nat) : nonlinearity n M ≤ 2 ^ (n - 1) := Nat.sub_le _ _

/-! ### LAP, NL and WALSH -/

/-- R133: over a valid table, with the operands in range, a command that needs one bit computes. -/
theorem tableCommand_of_validTable {p : Snapshot} {n : Nat} {ok : Nat → Bool}
    (compute : Nat → (Nat → Nat) → Triple) (h : ValidTable p n) (hok : ok n = true) :
    tableCommand 1 ok compute p = .ok (compute n p.entry) := by
  obtain ⟨⟨hpos, hmax, hlen⟩, hvalid⟩ := h
  exact tableCommand_ok compute (supportedWidth_eq_some.2 ⟨hpos, hmax, hpos, hlen⟩) hok hvalid

/-- Settles O10: LAP computes, and its numerator is the M of R182. -/
theorem lapResult : Obligations.LapResult := by
  unfold Obligations.LapResult
  intro s n h
  obtain ⟨hpos, _, _⟩ := h.1
  have hok : outcome .lap s.snap = .ok (computeLap n s.snap.entry) :=
    tableCommand_of_validTable computeLap h rfl
  refine ⟨_, isGreatest_linearMax hpos _, two_dvd_linearMax hpos _, linearMax_le hpos _, ?_⟩
  rw [exec_eq_complete, hok]
  rfl

/-- Settles O11: NL computes, and its halving is exact by the parity and the bound of R182's M. -/
theorem nlResult : Obligations.NlResult := by
  unfold Obligations.NlResult
  intro s n h
  obtain ⟨hpos, _, _⟩ := h.1
  have hok : outcome .nl s.snap = .ok (computeNl n s.snap.entry) :=
    tableCommand_of_validTable computeNl h rfl
  have heven := two_dvd_linearMax hpos s.snap.entry
  refine ⟨_, _, isGreatest_linearMax hpos _, heven, rfl,
    two_mul_nonlinearity_add hpos heven (linearMax_le hpos _), nonlinearity_le _ _, ?_⟩
  rw [exec_eq_complete, hok]
  rfl

/-- R11: a Walsh value is at most 256 in size, so that its 32-bit encoding reads back exactly. -/
theorem toInt_sext32_walsh {n : Nat} (hn : n ≤ 8) (S : Nat → Nat) (a b : Nat) :
    (sext32 (walsh (2 ^ n) S a b)).toInt = walsh (2 ^ n) S a b := by
  have hN : 2 ^ n ≤ 2 ^ 8 := Nat.pow_le_pow_right (by omega) hn
  obtain ⟨hlo, hhi⟩ := abs_le.1 (abs_walsh_le (2 ^ n) S a b)
  exact BitVec.toInt_ofInt_eq_self (by omega) (by omega) (by omega)

/-- Settles O12: WALSH computes, and its numerator is the machine's Walsh value, which is R180's. -/
theorem walshResult : Obligations.WalshResult := by
  unfold Obligations.WalshResult
  intro s n a b h ha hb
  obtain ⟨_, hmax, _⟩ := h.1
  have hmasks : twoMasksOk a b n = true := by simp [twoMasksOk, maskOk, ha, hb]
  have hok : outcome (.walsh a b) s.snap = .ok (computeWalsh a.toNat b.toNat n s.snap.entry) :=
    tableCommand_of_validTable (computeWalsh a.toNat b.toNat) h hmasks
  refine ⟨sext32 (walsh (2 ^ n) s.snap.entry a.toNat b.toNat), ?_, ?_⟩
  · rw [toInt_sext32_walsh hmax, walsh_eq_W]
  · rw [exec_eq_complete, hok]
    rfl

end Sys2Proof.Machine
end

section
/-! The difference-distribution family (R210–R214): the machine's DDT cell as R210 counts it, the laws
of R211, the differential maximum of R212, and the commands DAP and DDT. -/

namespace Sys2Proof.Machine

open Sys2Proof.Safety

/-! ### Inputs in pairs -/

/-- R211: the inputs below `2^n` pair off under the XOR with a non-zero difference, so that a property
which `x` and `x ^ d` share holds of an even number of them. -/
theorem two_dvd_card_filter_of_xor {n d : Nat} {q : Nat → Prop} [DecidablePred q] (hd : d < 2 ^ n)
    (h0 : d ≠ 0) (hq : ∀ x, q x → q (x ^^^ d)) :
    2 ∣ ((Finset.range (2 ^ n)).filter q).card := by
  have hpairs : ∑ _x ∈ (Finset.range (2 ^ n)).filter q, (1 : ZMod 2) = 0 := by
    refine Finset.sum_involution (fun x _ => x ^^^ d) (fun _ _ => rfl) (fun x _ _ hx => ?_)
      (fun x hx => ?_) (fun x _ => Nat.xor_xor_cancel_right x d)
    · exact h0 (Nat.xor_right_injective (hx.trans (Nat.xor_zero x).symm))
    · obtain ⟨hlt, hqx⟩ := Finset.mem_filter.1 hx
      exact Finset.mem_filter.2
        ⟨Finset.mem_range.2 (Nat.xor_lt_two_pow (Finset.mem_range.1 hlt) hd), hq x hqx⟩
  rwa [Finset.sum_const, nsmul_one, ZMod.natCast_eq_zero_iff] at hpairs

/-! ### The DDT cell -/

theorem ddtCell_eq_card (N : Nat) (S : Nat → Nat) (dx dy : Nat) :
    ddtCell N S dx dy = ((Finset.range N).filter fun x => S x ^^^ S (x ^^^ dx) = dy).card := by
  simp only [ddtCell, countBelow_eq_card, decide_eq_true_eq]

theorem ddtCell_eq_ddt (n : Nat) (S : Nat → Nat) (dx dy : Nat) :
    ddtCell (2 ^ n) S dx dy = ddt n S dx dy :=
  ddtCell_eq_card (2 ^ n) S dx dy

theorem ddtCell_le (N : Nat) (S : Nat → Nat) (dx dy : Nat) : ddtCell N S dx dy ≤ N :=
  countBelow_le _ N

/-- R211: the identity row has all N inputs at the output difference 0. -/
theorem ddtCell_zero_left (N : Nat) (S : Nat → Nat) (dy : Nat) :
    ddtCell N S 0 dy = if dy = 0 then N else 0 := by
  rw [ddtCell_eq_card]
  by_cases h : dy = 0
  · simp [h]
  · simp [h, Ne.symm h]

/-- R211: x and `x ^ dx` have one output difference and are counted together. -/
theorem two_dvd_ddtCell {n dx : Nat} (hdx : dx < 2 ^ n) (h0 : dx ≠ 0) (S : Nat → Nat) (dy : Nat) :
    2 ∣ ddtCell (2 ^ n) S dx dy := by
  rw [ddtCell_eq_card]
  refine two_dvd_card_filter_of_xor hdx h0 fun x hx => ?_
  rw [Nat.xor_xor_cancel_right, Nat.xor_comm, hx]

section Row

variable {n : Nat} {S : Nat → Nat} (hS : ∀ x < 2 ^ n, S x < 2 ^ n)

include hS

/-- R210: outputs below N differ by less than N. -/
theorem outputDifference_lt {dx x : Nat} (hdx : dx < 2 ^ n) (hx : x < 2 ^ n) :
    S x ^^^ S (x ^^^ dx) < 2 ^ n :=
  Nat.xor_lt_two_pow (hS x hx) (hS _ (Nat.xor_lt_two_pow hx hdx))

/-- R211: a row counts every input once, at its output difference. -/
theorem sum_ddtCell {dx : Nat} (hdx : dx < 2 ^ n) :
    ∑ dy ∈ Finset.range (2 ^ n), ddtCell (2 ^ n) S dx dy = 2 ^ n := by
  have hmaps : ∀ x ∈ Finset.range (2 ^ n), S x ^^^ S (x ^^^ dx) ∈ Finset.range (2 ^ n) :=
    fun x hx => Finset.mem_range.2 (outputDifference_lt hS hdx (Finset.mem_range.1 hx))
  simp only [ddtCell_eq_card]
  rw [← Finset.card_eq_sum_card_fiberwise hmaps, Finset.card_range]

/-- R212: a row's cells sum to N > 0, so that one of them is not 0; with dx non-zero that one is even,
and so at least 2. -/
theorem exists_two_le_ddtCell {dx : Nat} (hdx : dx < 2 ^ n) (h0 : dx ≠ 0) :
    ∃ dy < 2 ^ n, 2 ≤ ddtCell (2 ^ n) S dx dy := by
  have hrow : ∑ dy ∈ Finset.range (2 ^ n), ddtCell (2 ^ n) S dx dy ≠ 0 := by
    rw [sum_ddtCell hS hdx]; exact (Nat.two_pow_pos n).ne'
  obtain ⟨dy, hdy, hcell⟩ := Finset.exists_ne_zero_of_sum_ne_zero hrow
  exact ⟨dy, Finset.mem_range.1 hdy,
    Nat.le_of_dvd (Nat.pos_of_ne_zero hcell) (two_dvd_ddtCell hdx h0 S dy)⟩

end Row

/-- Settles O59: each law of R211 by its lemma. -/
theorem ddtLaws : Obligations.DdtLaws := by
  unfold Obligations.DdtLaws
  intro n S hS
  refine ⟨fun dx hdx => sum_ddtCell hS hdx, ?_, fun dy h0 => ?_,
    fun dx dy hdx h0 => two_dvd_ddtCell hdx h0 S dy, ddtCell_le (2 ^ n) S⟩
  · rw [ddtCell_zero_left, if_pos rfl]
  · rw [ddtCell_zero_left, if_neg h0]

/-! ### The maximum -/

theorem ddtCell_le_differentialMax {N dx dy : Nat} (h1 : 1 ≤ dx) (hdx : dx < N) (hdy : dy < N)
    (S : Nat → Nat) : ddtCell N S dx dy ≤ differentialMax N S := by
  obtain ⟨d, rfl⟩ := Nat.exists_eq_add_of_le' h1
  calc ddtCell N S (d + 1) dy
      ≤ maxBelow (ddtCell N S (d + 1)) N := le_maxBelow hdy
    _ ≤ differentialMax N S :=
      le_maxBelow (f := fun d => maxBelow (ddtCell N S (d + 1)) N) (by omega)

/-- R212: some cell with dx non-zero attains Dmax; there is one, because N is at least 2 (R8). -/
theorem differentialMax_attained {N : Nat} (hN : 2 ≤ N) (S : Nat → Nat) :
    ∃ dx dy, 1 ≤ dx ∧ dx < N ∧ dy < N ∧ differentialMax N S = ddtCell N S dx dy := by
  obtain ⟨d, hd, hmax⟩ :=
    maxBelow_attained (fun d => maxBelow (ddtCell N S (d + 1)) N) (N := N - 1) (by omega)
  obtain ⟨dy, hdy, hrow⟩ := maxBelow_attained (ddtCell N S (d + 1)) (N := N) (by omega)
  exact ⟨d + 1, dy, by omega, by omega, hdy, hmax.trans hrow⟩

/-- R212: the machine's Dmax is the greatest cell with dx non-zero. -/
theorem isGreatest_differentialMax {n : Nat} (hn : 1 ≤ n) (S : Nat → Nat) :
    IsGreatest (differentialValues n S) (differentialMax (2 ^ n) S) := by
  constructor
  · obtain ⟨dx, dy, h1, hdx, hdy, hmax⟩ :=
      differentialMax_attained (Nat.le_self_pow (by omega) 2 : 2 ≤ 2 ^ n) S
    exact ⟨dx, dy, h1, hdx, hdy, by rw [hmax, ddtCell_eq_ddt]⟩
  · rintro m ⟨dx, dy, h1, hdx, hdy, rfl⟩
    rw [← ddtCell_eq_ddt]
    exact ddtCell_le_differentialMax h1 hdx hdy S

/-- R212: the row dx = 1 already has a cell of at least 2. -/
theorem two_le_differentialMax {n : Nat} {S : Nat → Nat} (hn : 1 ≤ n)
    (hS : ∀ x < 2 ^ n, S x < 2 ^ n) : 2 ≤ differentialMax (2 ^ n) S := by
  have hone : 1 < 2 ^ n := Nat.one_lt_two_pow (by omega)
  obtain ⟨dy, hdy, hcell⟩ := exists_two_le_ddtCell hS hone one_ne_zero
  exact hcell.trans (ddtCell_le_differentialMax le_rfl hone hdy S)

theorem differentialMax_le {n : Nat} (hn : 1 ≤ n) (S : Nat → Nat) :
    differentialMax (2 ^ n) S ≤ 2 ^ n := by
  obtain ⟨dx, dy, _, _, _, hmax⟩ :=
    differentialMax_attained (Nat.le_self_pow (by omega) 2 : 2 ≤ 2 ^ n) S
  rw [hmax]
  exact ddtCell_le (2 ^ n) S dx dy

/-! ### DAP and DDT -/

/-- Settles O13: DAP computes, and its numerator is the Dmax of R212. -/
theorem dapResult : Obligations.DapResult := by
  unfold Obligations.DapResult
  intro s n h
  obtain ⟨hpos, _, _⟩ := h.1
  have hok : outcome .dap s.snap = .ok (computeDap n s.snap.entry) :=
    tableCommand_of_validTable computeDap h rfl
  refine ⟨_, isGreatest_differentialMax hpos _, two_le_differentialMax hpos h.2,
    differentialMax_le hpos _, ?_⟩
  rw [exec_eq_complete, hok]
  rfl

/-- Settles O14: DDT computes, and its numerator is the machine's cell, which is R210's. -/
theorem ddtResult : Obligations.DdtResult := by
  unfold Obligations.DdtResult
  intro s n dx dy h hdx hdy
  have hmasks : twoMasksOk dx dy n = true := by simp [twoMasksOk, maskOk, hdx, hdy]
  have hok : outcome (.ddt dx dy) s.snap = .ok (computeDdt dx.toNat dy.toNat n s.snap.entry) :=
    tableCommand_of_validTable (computeDdt dx.toNat dy.toNat) h hmasks
  rw [exec_eq_complete, hok, ← ddtCell_eq_ddt]
  rfl

end Sys2Proof.Machine
end

section
/-! The avalanche family (R230–R235): the flip count as the sum of R231 and as its count of inputs, the
avalanche total of R233 by its two sums, and the commands SAC and FLIP. -/

namespace Sys2Proof.Machine

open Sys2Proof.Safety

/-! ### The flip count -/

/-- R230: bit j of an XOR is 1 exactly where the two values differ at bit j. -/
theorem bit_xor (u v j : Nat) : bit (u ^^^ v) j = if bit u j ≠ bit v j then 1 else 0 := by
  cases hu : u.testBit j <;> cases hv : v.testBit j <;> simp [bit, Nat.testBit_xor, hu, hv]

/-- R231: the count of the inputs at which output bit j changes is the sum of bit j of their change
vectors. -/
theorem flips_eq_sum (n : Nat) (S : Nat → Nat) (i j : Nat) :
    flips n S i j = ∑ x ∈ Finset.range (2 ^ n), bit (S x ^^^ S (x ^^^ 2 ^ i)) j := by
  simp only [flips, Finset.card_filter, bit_xor]

theorem flipCount_eq_flips (n : Nat) (S : Nat → Nat) (i j : Nat) :
    flipCount (2 ^ n) S i j = flips n S i j := by
  simp only [flipCount, sumBelow_eq_sum, getBit_eq_bit, changeVector, Nat.one_shiftLeft, flips_eq_sum]

theorem flips_le (n : Nat) (S : Nat → Nat) (i j : Nat) : flips n S i j ≤ 2 ^ n :=
  (Finset.card_filter_le _ _).trans_eq (Finset.card_range _)

/-- R231: the output bit changes at x exactly when it changes at `x ^ e_i`, so that the two are counted
together. -/
theorem two_dvd_flips {n i : Nat} (hi : i < n) (S : Nat → Nat) (j : Nat) : 2 ∣ flips n S i j := by
  have hpow : 2 ^ i < 2 ^ n := Nat.pow_lt_pow_right one_lt_two hi
  refine two_dvd_card_filter_of_xor hpow (Nat.two_pow_pos i).ne' fun x hx => ?_
  rw [Nat.xor_xor_cancel_right]
  exact hx.symm

/-! ### The avalanche total -/

/-- R160: a value of n bits has all its ones below bit n. -/
theorem ones_eq_sum_of_lt {x n : Nat} (hn : n ≤ 32) (h : x < 2 ^ n) :
    ones x = ∑ j ∈ Finset.range n, bit x j := by
  refine (Finset.sum_subset (Finset.range_subset_range.2 hn) fun t _ ht => ?_).symm
  have hle : n ≤ t := by simpa using ht
  have hlt : x < 2 ^ t := h.trans_le (Nat.pow_le_pow_right (by omega) hle)
  simp [bit, Nat.testBit_lt_two_pow hlt]

/-- R233, term by term: a row of the avalanche matrix sums to the ones of its change vectors. -/
theorem sum_flips {n i : Nat} {S : Nat → Nat} (hn : n ≤ 32) (hS : ∀ x < 2 ^ n, S x < 2 ^ n)
    (hi : i < n) :
    ∑ j ∈ Finset.range n, flips n S i j =
      ∑ x ∈ Finset.range (2 ^ n), ones (S x ^^^ S (x ^^^ 2 ^ i)) := by
  have hpow : 2 ^ i < 2 ^ n := Nat.pow_lt_pow_right one_lt_two hi
  have hones : ∀ x ∈ Finset.range (2 ^ n), ones (S x ^^^ S (x ^^^ 2 ^ i)) =
      ∑ j ∈ Finset.range n, bit (S x ^^^ S (x ^^^ 2 ^ i)) j := fun x hx =>
    ones_eq_sum_of_lt hn (outputDifference_lt hS hpow (Finset.mem_range.1 hx))
  simp only [flips_eq_sum]
  rw [Finset.sum_comm, Finset.sum_congr rfl hones]

theorem avalancheTotal_eq_flipTotal (n : Nat) (S : Nat → Nat) :
    avalancheTotal n S = flipTotal n S := by
  simp only [avalancheTotal, sumBelow_eq_sum, flipCount_eq_flips, flipTotal]

/-- R233: each of the n × n counts is at most N. -/
theorem flipTotal_le (n : Nat) (S : Nat → Nat) : flipTotal n S ≤ n * n * 2 ^ n :=
  calc flipTotal n S
      ≤ ∑ _i ∈ Finset.range n, ∑ _j ∈ Finset.range n, 2 ^ n :=
        Finset.sum_le_sum fun i _ => Finset.sum_le_sum fun j _ => flips_le n S i j
    _ = n * n * 2 ^ n := by simp [mul_assoc]

/-! ### SAC and FLIP -/

/-- Settles O15: the two sums agree row by row, and SAC computes the machine's total, which is R233's. -/
theorem sacResult : Obligations.SacResult := by
  unfold Obligations.SacResult
  intro s n h
  obtain ⟨_, hmax, _⟩ := h.1
  have hok : outcome .sac s.snap = .ok (computeSac n s.snap.entry) :=
    tableCommand_of_validTable computeSac h rfl
  refine ⟨Finset.sum_congr rfl fun i hi => sum_flips (by omega) h.2 (Finset.mem_range.1 hi),
    flipTotal_le n _, ?_⟩
  rw [exec_eq_complete, hok, ← avalancheTotal_eq_flipTotal]
  rfl

/-- Settles O16: FLIP computes, and its numerator is the machine's count, which is R231's. -/
theorem flipResult : Obligations.FlipResult := by
  unfold Obligations.FlipResult
  intro s n i j h hi hj
  have hbits : twoBitsOk i j n = true := by simp [twoBitsOk, bitOk, hi, hj]
  have hok : outcome (.flip i j) s.snap = .ok (computeFlip i.toNat j.toNat n s.snap.entry) :=
    tableCommand_of_validTable (computeFlip i.toNat j.toNat) h hbits
  refine ⟨flips_eq_sum n _ _ _, two_dvd_flips hi _ _, flips_le n _ _ _, ?_⟩
  rw [exec_eq_complete, hok, ← flipCount_eq_flips]
  rfl

end Sys2Proof.Machine
end

section
/-! The bit-independence family (R250–R258): the agreement count of R251 and the sum of products of
R252, the pair nonlinearity of R255 and its least value, the commands BICCORR, BICSAC, BICNLP and
BICNL, and BIC-NL beside NL. -/

namespace Sys2Proof.Machine

open Sys2Proof.Safety

/-! ### The agreement count -/

/-- R230: bit j of the change vector says whether output bit j changes. -/
theorem getBit_changeVector (S : Nat → Nat) (i j x : Nat) :
    getBit (changeVector S i x) j = if changes S i j x = true then 1 else 0 := by
  simp only [getBit_eq_bit, changeVector, Nat.one_shiftLeft, bit_xor, changes, decide_eq_true_eq]

/-- R251: the XOR filter is 0 exactly where output bits j and k change together or stay together. -/
theorem xorFilter_eq_zero_iff (S : Nat → Nat) (i j k x : Nat) :
    xorFilter S i j k x = 0 ↔ changes S i j x = changes S i k x := by
  rw [xorFilter, Nat.xor_eq_zero_iff, getBit_changeVector, getBit_changeVector]
  cases changes S i j x <;> cases changes S i k x <;> simp

theorem agreements_eq_agree (n : Nat) (S : Nat → Nat) (i j k : Nat) :
    agreements (2 ^ n) S i j k = agree n S i j k := by
  simp only [agreements, countBelow_eq_card, decide_eq_true_eq, xorFilter_eq_zero_iff, agree]

theorem correlation_eq_corr (n : Nat) (S : Nat → Nat) (i j k : Nat) :
    correlation (2 ^ n) S i j k = corr n S i j k := by
  rw [correlation, corr, agreements_eq_agree, Nat.cast_pow, Nat.cast_ofNat]

theorem agree_le (n : Nat) (S : Nat → Nat) (i j k : Nat) : agree n S i j k ≤ 2 ^ n :=
  (Finset.card_filter_le _ _).trans_eq (Finset.card_range _)

theorem agree_comm (n : Nat) (S : Nat → Nat) (i j k : Nat) : agree n S i j k = agree n S i k j := by
  simp only [agree, eq_comm]

theorem corr_comm (n : Nat) (S : Nat → Nat) (i j k : Nat) : corr n S i j k = corr n S i k j := by
  rw [corr, corr, agree_comm]

/-- R230: `x` and `x ^ e_i` have one change vector. -/
theorem changes_xor (S : Nat → Nat) (i j x : Nat) :
    changes S i j (x ^^^ 2 ^ i) = changes S i j x := by
  simp only [changes, Nat.xor_xor_cancel_right, ne_comm]

/-- R251: `x` and `x ^ e_i` are counted together. -/
theorem two_dvd_agree {n i : Nat} (hi : i < n) (S : Nat → Nat) (j k : Nat) : 2 ∣ agree n S i j k := by
  have hpow : 2 ^ i < 2 ^ n := Nat.pow_lt_pow_right one_lt_two hi
  refine two_dvd_card_filter_of_xor hpow (Nat.two_pow_pos i).ne' fun x hx => ?_
  rw [changes_xor, changes_xor, hx]

/-! ### The correlation -/

/-- R252: an agreement adds 1 to the sum of products, a disagreement takes 1 away. -/
theorem corr_eq_sum (n : Nat) (S : Nat → Nat) (i j k : Nat) :
    corr n S i j k = ∑ x ∈ Finset.range (2 ^ n),
      (if changes S i j x then (-1 : Int) else 1) * (if changes S i k x then (-1 : Int) else 1) := by
  have hterm : ∀ x, (if changes S i j x then (-1 : Int) else 1) *
      (if changes S i k x then (-1 : Int) else 1) =
      2 * (if changes S i j x = changes S i k x then 1 else 0) - 1 := fun x => by
    cases changes S i j x <;> cases changes S i k x <;> rfl
  simp only [hterm, Finset.sum_sub_distrib, ← Finset.mul_sum, corr, agree,
    Finset.natCast_card_filter, Finset.sum_const, Finset.card_range, nsmul_one, Nat.cast_pow,
    Nat.cast_ofNat]

/-- R252: the correlation lies in [-1, 1]. -/
theorem abs_corr_le (n : Nat) (S : Nat → Nat) (i j k : Nat) : |corr n S i j k| ≤ (2 ^ n : Nat) := by
  have hle := agree_le n S i j k
  have hN : ((2 ^ n : Nat) : Int) = 2 ^ n := Nat.cast_pow 2 n
  rw [corr, ← hN, abs_le]
  omega

/-- R11: a numerator of R252 is at most 256 in size, so that its 32-bit encoding reads back. -/
theorem toInt_sext32_corr {n : Nat} (hn : n ≤ 8) (S : Nat → Nat) (i j k : Nat) :
    (sext32 (corr n S i j k)).toInt = corr n S i j k := by
  have hN : 2 ^ n ≤ 2 ^ 8 := Nat.pow_le_pow_right (by omega) hn
  obtain ⟨hlo, hhi⟩ := abs_le.1 (abs_corr_le n S i j k)
  exact BitVec.toInt_ofInt_eq_self (by omega) (by omega) (by omega)

/-! ### The correlation total -/

/-- R250: the pairs of n + 1 output bits are those of n, and bit n with each bit below it. -/
theorem bitPairs_succ (n : Nat) :
    bitPairs (n + 1) = bitPairs n ++ (List.range n).map fun j => (j, n) := by
  simp only [bitPairs, List.range_succ, List.flatMap_append, List.flatMap_singleton]

/-- R250: a sum over the pairs runs over the j below each k. -/
theorem sum_bitPairs (f : Nat → Nat → Nat) (n : Nat) :
    ((bitPairs n).map fun p => f p.1 p.2).sum =
      ∑ k ∈ Finset.range n, ∑ j ∈ Finset.range k, f j k := by
  induction n with
  | zero => rfl
  | succ n ih =>
    rw [bitPairs_succ, List.map_append, List.sum_append, ih, Finset.sum_range_succ, List.map_map]
    rfl

theorem correlationTotal_eq_corrTotal (n : Nat) (S : Nat → Nat) :
    correlationTotal n S = corrTotal n S := by
  simp only [correlationTotal, sumBelow_eq_sum, correlation_eq_corr, corrTotal]
  exact Finset.sum_congr rfl fun i _ => sum_bitPairs (fun j k => (corr n S i j k).natAbs) n

/-- R254: each i has n(n-1)/2 pairs, and each pair adds at most N. -/
theorem corrTotal_le (n : Nat) (S : Nat → Nat) : corrTotal n S ≤ 2 ^ n * n * (n * (n - 1) / 2) := by
  have hterm : ∀ i j k, (corr n S i j k).natAbs ≤ 2 ^ n := fun i j k => by
    obtain ⟨hlo, hhi⟩ := abs_le.1 (abs_corr_le n S i j k)
    omega
  calc corrTotal n S
      ≤ ∑ _i ∈ Finset.range n, ∑ k ∈ Finset.range n, ∑ _j ∈ Finset.range k, 2 ^ n :=
        Finset.sum_le_sum fun i _ => Finset.sum_le_sum fun k _ => Finset.sum_le_sum fun j _ =>
          hterm i j k
    _ = n * ((∑ k ∈ Finset.range n, k) * 2 ^ n) := by simp [Finset.sum_mul]
    _ = 2 ^ n * n * (n * (n - 1) / 2) := by rw [Finset.sum_range_id]; ring

/-! ### The pair nonlinearity -/

theorem pairMask_eq (j k : Nat) : pairMask j k = 2 ^ j ||| 2 ^ k := by
  rw [pairMask, Nat.one_shiftLeft, Nat.one_shiftLeft]

theorem pairMax_comm (N : Nat) (S : Nat → Nat) (j k : Nat) : pairMax N S j k = pairMax N S k j := by
  rw [pairMax, pairMax, pairMask_eq, pairMask_eq, Nat.or_comm]

theorem pairNonlinearity_comm (n : Nat) (S : Nat → Nat) (j k : Nat) :
    pairNonlinearity n S j k = pairNonlinearity n S k j := by
  rw [pairNonlinearity, pairNonlinearity, pairMax_comm]

/-- R255: the machine's `M_{jk}` is the greatest `|W(a, e_j | e_k)|`. -/
theorem isGreatest_pairMax (n : Nat) (S : Nat → Nat) (j k : Nat) :
    IsGreatest (pairValues n S j k) (pairMax (2 ^ n) S j k) := by
  rw [pairMax, pairMask_eq]
  constructor
  · obtain ⟨a, ha, hmax⟩ := rowMax_attained (Nat.two_pow_pos n) S (2 ^ j ||| 2 ^ k)
    exact ⟨a, ha, by rw [hmax, walsh_eq_W]⟩
  · rintro m ⟨a, ha, rfl⟩
    rw [← walsh_eq_W]
    exact le_rowMax ha S _

theorem two_dvd_pairMax {n : Nat} (hn : 1 ≤ n) (S : Nat → Nat) (j k : Nat) :
    2 ∣ pairMax (2 ^ n) S j k := two_dvd_rowMax hn S _

theorem pairMax_le (n : Nat) (S : Nat → Nat) (j k : Nat) : pairMax (2 ^ n) S j k ≤ 2 ^ n :=
  rowMax_le (Nat.two_pow_pos n) S _

/-- R255: the pair function, the inner product with `e_j | e_k`, is the sum of output bits j and k. -/
theorem dot_pair {j k : Nat} (hj : j < 32) (hk : k < 32) (h : j ≠ k) (v : Nat) :
    dot (2 ^ j ||| 2 ^ k) v = bit v j ^^^ bit v k := by
  rw [← bitDot_eq_dot, bitDot_pair hj hk h, getBit_eq_bit, getBit_eq_bit]

/-- R258: every `e_j | e_k` is a non-zero output mask, one of those that M runs over. -/
theorem pairValues_subset_linearValues {n j k : Nat} (hj : j < n) (hk : k < n) (S : Nat → Nat) :
    pairValues n S j k ⊆ linearValues n S := by
  rintro m ⟨a, ha, rfl⟩
  have hmask : 2 ^ j ||| 2 ^ k < 2 ^ n := Nat.or_lt_two_pow
    (Nat.pow_lt_pow_right one_lt_two hj) (Nat.pow_lt_pow_right one_lt_two hk)
  have hpos : 1 ≤ 2 ^ j ||| 2 ^ k := Nat.one_le_two_pow.trans Nat.left_le_or
  exact ⟨a, _, ha, hpos, hmask, rfl⟩

/-! ### The least pair nonlinearity -/

/-- R257: some pair attains L; there is one, because n is at least 2 (R250). -/
theorem worstPair_attained {n : Nat} (hn : 2 ≤ n) (S : Nat → Nat) :
    ∃ j k, j < k ∧ k < n ∧ worstPair n S = pairNonlinearity n S j k := by
  have hne : bitPairs n ≠ [] := List.ne_nil_of_mem (mem_bitPairs.2 ⟨zero_lt_one, hn⟩)
  have hmem : worstPair n S ∈ (bitPairs n).map fun p => pairNonlinearity n S p.1 p.2 :=
    minOf_mem (mt List.map_eq_nil_iff.1 hne)
  obtain ⟨⟨j, k⟩, hp, hmin⟩ := List.mem_map.1 hmem
  obtain ⟨hjk, hk⟩ := mem_bitPairs.1 hp
  exact ⟨j, k, hjk, hk, hmin.symm⟩

theorem worstPair_le {n j k : Nat} (hjk : j < k) (hk : k < n) (S : Nat → Nat) :
    worstPair n S ≤ pairNonlinearity n S j k :=
  minOf_le (List.mem_map.2 ⟨(j, k), mem_bitPairs.2 ⟨hjk, hk⟩, rfl⟩)

/-- R257: the machine's L is the least pair nonlinearity. -/
theorem isLeast_worstPair {n : Nat} (hn : 2 ≤ n) (S : Nat → Nat) :
    IsLeast (pairNonlinearities n S) (worstPair n S) := by
  constructor
  · obtain ⟨j, k, hjk, hk, hmin⟩ := worstPair_attained hn S
    exact ⟨j, k, _, hjk, hk, isGreatest_pairMax n S j k, hmin⟩
  · rintro l ⟨j, k, m, hjk, hk, hm, rfl⟩
    rw [hm.unique (isGreatest_pairMax n S j k)]
    exact worstPair_le hjk hk S

/-- R257: `N - 2·L` is not cut off at 0. -/
theorem two_mul_worstPair_le {n : Nat} (hn : 2 ≤ n) (S : Nat → Nat) : 2 * worstPair n S ≤ 2 ^ n := by
  obtain ⟨j, k, _, _, hmin⟩ := worstPair_attained hn S
  have hexact := two_mul_nonlinearity_add (by omega) (two_dvd_pairMax (by omega) S j k)
    (pairMax_le n S j k)
  rw [hmin, pairNonlinearity]
  omega

/-! ### BICCORR, BICSAC, BICNLP and BICNL -/

/-- R133, R134: over a valid table of at least two bits, with the operands in range, a command that
needs two bits computes. -/
theorem tableCommand_two_of_validTable {p : Snapshot} {n : Nat} {ok : Nat → Bool}
    (compute : Nat → (Nat → Nat) → Triple) (h : ValidTable p n) (hn : 2 ≤ n) (hok : ok n = true) :
    tableCommand 2 ok compute p = .ok (compute n p.entry) := by
  obtain ⟨⟨hpos, hmax, hlen⟩, hvalid⟩ := h
  exact tableCommand_ok compute (supportedWidth_eq_some.2 ⟨hpos, hmax, hn, hlen⟩) hok hvalid

/-- R136: two different bit indices are in range, so that the table has at least two bits. -/
theorem two_le_of_pair {n : Nat} {j k : Operand} (hj : j.toNat < n) (hk : k.toNat < n) (h : j ≠ k) :
    2 ≤ n := by
  have hne : j.toNat ≠ k.toNat := BitVec.toNat_ne_iff_ne.2 h
  omega

/-- R253: what BICCORR completes with. -/
theorem exec_biccorr {s : State} {n : Nat} {i j k : Operand} (h : ValidTable s.snap n)
    (hi : i.toNat < n) (hj : j.toNat < n) (hk : k.toNat < n) (hjk : j ≠ k) :
    exec (.biccorr i j k) s = .next (succeeded s
      (sext32 (corr n s.snap.entry i.toNat j.toNat k.toNat)) (BitVec.ofNat 32 (2 ^ n))
      (BitVec.ofNat 32 (agree n s.snap.entry i.toNat j.toNat k.toNat))) := by
  have hbits : bitAndPairOk i j k n = true := by simp [bitAndPairOk, pairOk, bitOk, hi, hj, hk, hjk]
  have hok : outcome (.biccorr i j k) s.snap =
      .ok (computeBiccorr i.toNat j.toNat k.toNat n s.snap.entry) :=
    tableCommand_two_of_validTable _ h (two_le_of_pair hj hk hjk) hbits
  rw [exec_eq_complete, hok, ← correlation_eq_corr, ← agreements_eq_agree]
  rfl

/-- R256: what BICNLP completes with. -/
theorem exec_bicnlp {s : State} {n : Nat} {j k : Operand} (h : ValidTable s.snap n)
    (hj : j.toNat < n) (hk : k.toNat < n) (hjk : j ≠ k) :
    exec (.bicnlp j k) s = .next (succeeded s
      (BitVec.ofNat 32 (pairNonlinearity n s.snap.entry j.toNat k.toNat)) 1
      (BitVec.ofNat 32 (pairMax (2 ^ n) s.snap.entry j.toNat k.toNat))) := by
  have hbits : bitPairOk j k n = true := by simp [bitPairOk, pairOk, bitOk, hj, hk, hjk]
  have hok : outcome (.bicnlp j k) s.snap = .ok (computeBicnlp j.toNat k.toNat n s.snap.entry) :=
    tableCommand_two_of_validTable _ h (two_le_of_pair hj hk hjk) hbits
  rw [exec_eq_complete, hok]
  rfl

/-- Settles O17: BICCORR computes in both orders of j and k, and its triple is symmetric in them. -/
theorem biccorrResult : Obligations.BiccorrResult := by
  unfold Obligations.BiccorrResult
  intro s n i j k h hi hj hk hjk
  obtain ⟨_, hmax, _⟩ := h.1
  refine ⟨two_dvd_agree hi _ _ _, agree_le n _ _ _ _, corr_eq_sum n _ _ _ _, ?_,
    _, toInt_sext32_corr hmax _ _ _ _, exec_biccorr h hi hj hk hjk⟩
  rw [exec_biccorr h hi hj hk hjk, exec_biccorr h hi hk hj hjk.symm, corr_comm, agree_comm]

/-- Settles O18: BICSAC computes the machine's total, which is R254's. -/
theorem bicsacResult : Obligations.BicsacResult := by
  unfold Obligations.BicsacResult
  intro s n h hn
  have hok : outcome .bicsac s.snap = .ok (computeBicsac n s.snap.entry) :=
    tableCommand_two_of_validTable computeBicsac h hn rfl
  refine ⟨corrTotal_le n _, ?_⟩
  rw [exec_eq_complete, hok, ← correlationTotal_eq_corrTotal]
  rfl

/-- Settles O19: BICNLP computes in both orders of j and k, and its pair mask is symmetric in them. -/
theorem bicnlpResult : Obligations.BicnlpResult := by
  unfold Obligations.BicnlpResult
  intro s n j k h hj hk hjk
  obtain ⟨hpos, hmax, _⟩ := h.1
  have hne : j.toNat ≠ k.toNat := BitVec.toNat_ne_iff_ne.2 hjk
  refine ⟨fun x _ => dot_pair (by omega) (by omega) hne _, ?_, _, _, isGreatest_pairMax n _ _ _,
    two_dvd_pairMax hpos _ _ _, pairMax_le n _ _ _, rfl, nonlinearity_le _ _,
    exec_bicnlp h hj hk hjk⟩
  rw [exec_bicnlp h hj hk hjk, exec_bicnlp h hk hj hjk.symm, pairNonlinearity_comm, pairMax_comm]

/-- Settles O20: BICNL computes, and its number is the L of R257. -/
theorem bicnlResult : Obligations.BicnlResult := by
  unfold Obligations.BicnlResult
  intro s n h hn
  have hok : outcome .bicnl s.snap = .ok (computeBicnl n s.snap.entry) :=
    tableCommand_two_of_validTable computeBicnl h hn rfl
  refine ⟨_, isLeast_worstPair hn _, two_mul_worstPair_le hn _, ?_⟩
  rw [exec_eq_complete, hok]
  rfl

/-- Settles O60: the pair that attains L has its maximum among the values of M, and a greater maximum
leaves a smaller nonlinearity. -/
theorem bicnlAtLeastNl : Obligations.BicnlAtLeastNl := by
  unfold Obligations.BicnlAtLeastNl
  intro s t t' n h hn hnl hbicnl
  obtain ⟨_, hmax, _⟩ := h.1
  obtain ⟨M, v, hM, _, rfl, _, _, hexec⟩ := nlResult s n h
  obtain ⟨L, ⟨⟨j, k, m, hjk, hk, hm, hL⟩, _⟩, hle, hexec'⟩ := bicnlResult s n h hn
  obtain rfl : succeeded s _ _ _ = t := Host.Outcome.next.inj (hexec.symm.trans hnl)
  obtain rfl : succeeded s _ _ _ = t' := Host.Outcome.next.inj (hexec'.symm.trans hbicnl)
  have hmM : m ≤ M := hm.mono hM (pairValues_subset_linearValues (hjk.trans hk) hk _)
  have hN : 2 ^ n ≤ 2 ^ 8 := Nat.pow_le_pow_right (by omega) hmax
  have hword : L < 2 ^ 32 := by omega
  calc (BitVec.ofNat 32 (2 ^ (n - 1) - M / 2)).toNat
      ≤ 2 ^ (n - 1) - M / 2 := Nat.mod_le _ _
    _ ≤ L := by omega
    _ = (BitVec.ofNat 32 L).toNat := (Nat.mod_eq_of_lt hword).symm

end Sys2Proof.Machine
end

section
/-! The illegal words (R106) and the commands they leave: a word is legal exactly when it decodes to a
command outside the reserved rows. -/

namespace Sys2Proof

open Sys2Proof.Safety

/-! ### R106 by the fields of a word -/

/-- R106: the operand fields that a word's command does not use are not all 0. -/
def UnusedOperandSet (op : Nat) (f1 f2 f3 : Operand) : Prop :=
  (op ≤ 6 ∧ ¬ (f1 = 0 ∧ f2 = 0 ∧ f3 = 0)) ∨ (op ∈ [7, 8, 9, 11, 13] ∧ f3 ≠ 0) ∨
    (op = 12 ∧ ¬ (f2 = 0 ∧ f3 = 0))

theorem toNat_and_fifteen (w : Word) : (w &&& 0xF).toNat = (opField w).toNat := by
  simpa [opField] using Nat.and_two_pow_sub_one_eq_mod w.toNat 4

theorem shiftRight_four_and_fifteen_eq_zero_iff (w : Word) :
    (w >>> 4) &&& 0xF = 0 ↔ rsvField w = 0 := by
  have hmod := Nat.and_two_pow_sub_one_eq_mod (w.toNat >>> 4) 4
  simpa [rsvField, BitVec.toNat_eq] using Eq.congr_left hmod

/-- The bits from `k` up are 0 when the byte there is, and those above it are. -/
theorem shiftRight_eq_zero_iff (w : Word) (k : Nat) :
    w >>> k = 0 ↔ w.extractLsb' k 8 = 0 ∧ w >>> (k + 8) = 0 := by
  simp only [BitVec.toNat_eq, BitVec.toNat_ushiftRight, BitVec.extractLsb'_toNat,
    BitVec.ofNat_eq_ofNat, BitVec.toNat_zero, Nat.shiftRight_add]
  omega

theorem shiftRight_twentyFour_eq_zero_iff (w : Word) : w >>> 24 = 0 ↔ f3Field w = 0 := by
  have htop : w >>> (24 + 8) = 0 := BitVec.ushiftRight_eq_zero (le_refl 32)
  rw [shiftRight_eq_zero_iff, and_iff_left htop, f3Field]

theorem shiftRight_sixteen_eq_zero_iff (w : Word) :
    w >>> 16 = 0 ↔ f2Field w = 0 ∧ f3Field w = 0 := by
  rw [shiftRight_eq_zero_iff, shiftRight_twentyFour_eq_zero_iff, f2Field]

theorem shiftRight_eight_eq_zero_iff (w : Word) :
    w >>> 8 = 0 ↔ f1Field w = 0 ∧ f2Field w = 0 ∧ f3Field w = 0 := by
  rw [shiftRight_eq_zero_iff, shiftRight_sixteen_eq_zero_iff, f1Field]

/-- R101, R106: the bits that make a word illegal are those of its fields. -/
theorem illegalWord_iff_fields (w : Word) :
    IllegalWord w ↔ rsvField w ≠ 0 ∨ 14 ≤ (opField w).toNat ∨
      UnusedOperandSet (opField w).toNat (f1Field w) (f2Field w) (f3Field w) := by
  simp only [IllegalWord, UnusedOperandSet, ne_eq, toNat_and_fifteen,
    shiftRight_four_and_fifteen_eq_zero_iff, shiftRight_eight_eq_zero_iff,
    shiftRight_sixteen_eq_zero_iff, shiftRight_twentyFour_eq_zero_iff]

/-! ### R106 by the decoder -/

/-- R105: below the reserved rows, a word with RSV 0 selects a command unless a field it must leave 0
is set. -/
theorem exists_decodeOp_eq_ok {op : Nat} {f1 f2 f3 : Operand} (hop : op < 14)
    (h : ¬ UnusedOperandSet op f1 f2 f3) : ∃ i, decodeOp op f1 f2 f3 = .ok i := by
  have hnone : op ≤ 6 → f1 = 0 ∧ f2 = 0 ∧ f3 = 0 :=
    fun hle => by_contra fun hn => h (.inl ⟨hle, hn⟩)
  have htwo : op ∈ [7, 8, 9, 11, 13] → f3 = 0 :=
    fun hmem => by_contra fun hn => h (.inr (.inl ⟨hmem, hn⟩))
  have hone : op = 12 → f2 = 0 ∧ f3 = 0 :=
    fun heq => by_contra fun hn => h (.inr (.inr ⟨heq, hn⟩))
  -- the rows by the operand fields they leave 0: all three, F3, none, F2 and F3
  obtain hle | hmem | rfl | rfl : op ≤ 6 ∨ op ∈ [7, 8, 9, 11, 13] ∨ op = 10 ∨ op = 12 := by
    simp only [List.mem_cons, List.not_mem_nil, or_false]
    omega
  · obtain ⟨rfl, rfl, rfl⟩ := hnone hle
    interval_cases op <;> exact ⟨_, rfl⟩
  · obtain rfl := htwo hmem
    fin_cases hmem <;> exact ⟨_, rfl⟩
  · exact ⟨_, rfl⟩
  · obtain ⟨rfl, rfl⟩ := hone rfl
    exact ⟨_, rfl⟩

/-- R106, R281: the rows of the reserved opcodes. -/
def isReserved : Instr → Bool
  | .reservedE _ | .reservedF _ => true
  | .check | .lap | .nl | .sac | .dap | .bicsac | .bicnl => false
  | .walsh _ _ | .ddt _ _ | .flip _ _ | .biccorr _ _ _ | .bicnlp _ _ => false
  | .popcnt _ | .bitdot _ _ => false

/-- R106: a command's own word is illegal exactly for the reserved rows. -/
theorem illegalWord_encode_iff (i : Instr) : IllegalWord (encode i) ↔ isReserved i = true := by
  rw [illegalWord_iff_fields]
  cases i with
  | reservedE rest | reservedF rest => simp [encode, isReserved]
  | _ => simp [encode, UnusedOperandSet, isReserved]

/-- R105, R106: a word that is not illegal decodes to a command outside the reserved rows. -/
theorem exists_decode_of_not_illegalWord {w : Word} (h : ¬ IllegalWord w) :
    ∃ i, decode w = .ok i ∧ isReserved i = false := by
  obtain ⟨hrsv, hop, hused⟩ : rsvField w = 0 ∧ (opField w).toNat < 14 ∧
      ¬ UnusedOperandSet (opField w).toNat (f1Field w) (f2Field w) (f3Field w) := by
    simpa [illegalWord_iff_fields] using h
  obtain ⟨i, hi⟩ := exists_decodeOp_eq_ok hop hused
  have hd : decode w = .ok i := by rw [← packWord_fields hrsv, decode_packWord hop, hi]
  refine ⟨i, hd, ?_⟩
  rwa [← encode_decode hd, illegalWord_encode_iff, Bool.not_eq_true] at h

end Sys2Proof
end

section
/-! The errors a completion reports (R280–R285): IllegalCommand by the word alone; the checks of a table
command in their order, each with the code it gives. -/

namespace Sys2Proof.Machine

open Sys2Proof.Safety

/-! ### The code of an outcome -/

/-- R137, R138: the ERRCODE that completing with this outcome leaves. -/
def CmdResult.code : CmdResult → BitVec 4
  | .ok _ => 0
  | .err e _ => e.code

@[simp] theorem CmdResult.code_ok (r : Triple) : (CmdResult.ok r).code = 0 := rfl

@[simp] theorem CmdResult.code_err (e : CmdError) (aux : Word) : (CmdResult.err e aux).code = e.code :=
  rfl

@[simp] theorem complete_errcode (r : CmdResult) (s : State) : (s.complete r).errcode = r.code := by
  cases r <;> rfl

theorem CmdResult.code_le_four (r : CmdResult) : r.code.toNat ≤ 4 := by
  cases r with
  | ok _ => exact Nat.zero_le 4
  | err e _ => exact e.code_le_four

/-- R280: only ValueOutOfRange has code 2. -/
theorem CmdResult.exists_of_code_eq_two {r : CmdResult} (h : r.code = 2) :
    ∃ aux, r = .err .valueOutOfRange aux := by
  cases r with
  | ok _ => cases h
  | err e aux => obtain rfl := e.code_eq_two_iff.1 h; exact ⟨aux, rfl⟩

/-! ### The checks of a table command -/

/-- R135, R283: the lowest index below N whose entry is not below N. -/
def LowestBadEntry (p : Snapshot) (x : Nat) : Prop :=
  x < p.len.toNat ∧ p.len.toNat ≤ p.entry x ∧ ∀ y < x, p.entry y < p.len.toNat

section TableCommand

variable {m n : Nat} {ok : Nat → Bool} {compute : Nat → (Nat → Nat) → Triple} {p : Snapshot}

theorem tableCommand_of_unsupported (hw : supportedWidth m p.len.toNat = none) :
    tableCommand m ok compute p = .err .invalidTableLength 0 := by
  simp [tableCommand, hw]

theorem tableCommand_of_operandsOut (hw : supportedWidth m p.len.toNat = some n)
    (hok : ok n = false) : tableCommand m ok compute p = .err .operandOutOfRange 0 := by
  simp [tableCommand, hw, hok]

/-- R283, R135: the values are checked from entry 0 upward, so that the lowest bad one is found. -/
theorem tableCommand_of_lowestBadEntry {x : Nat} (hw : supportedWidth m p.len.toNat = some n)
    (hok : ok n = true) (hx : x < 2 ^ n) (hbad : 2 ^ n ≤ p.entry x)
    (hlow : ∀ y < x, p.entry y < 2 ^ n) :
    tableCommand m ok compute p = .err .valueOutOfRange (zext32 x) := by
  have hfirst : firstBelow (fun x => decide (2 ^ n ≤ p.entry x)) (2 ^ n) = some x :=
    firstBelow_eq_some.2 ⟨hx, by simpa using hbad, fun y hy => by simpa using hlow y hy⟩
  simp [tableCommand, hw, hok, hfirst]

/-- R284, R285: the length is the first check, and the only one with code 1. -/
theorem tableCommand_code_eq_one_iff :
    (tableCommand m ok compute p).code = 1 ↔ supportedWidth m p.len.toNat = none := by
  rcases tableCommand_cases m ok compute p with ⟨hw, e⟩ | ⟨n, hw, ⟨_, e⟩ | ⟨_, _, _, _, _, e⟩ |
    ⟨_, _, e⟩⟩ <;> simp [e, hw, CmdError.code]

/-- R282, R285: the operands are checked once the length has passed, whatever the table holds. -/
theorem tableCommand_code_eq_four_iff :
    (tableCommand m ok compute p).code = 4 ↔
      ∃ n, supportedWidth m p.len.toNat = some n ∧ ok n = false := by
  rcases tableCommand_cases m ok compute p with ⟨hw, e⟩ | ⟨n, hw, ⟨hok, e⟩ | ⟨hok, _, _, _, _, e⟩ |
    ⟨hok, _, e⟩⟩
  · simp [e, hw, CmdError.code]
  all_goals simp [e, hw, hok, CmdError.code]

/-- R283, R285: the values are checked last. -/
theorem tableCommand_code_eq_two_iff :
    (tableCommand m ok compute p).code = 2 ↔
      ∃ n, supportedWidth m p.len.toNat = some n ∧ ok n = true ∧
        ∃ x < 2 ^ n, 2 ^ n ≤ p.entry x := by
  rcases tableCommand_cases m ok compute p with ⟨hw, e⟩ | ⟨n, hw, ⟨hok, e⟩ |
    ⟨hok, x, hx, hbad, _, e⟩ | ⟨hok, hvalid, e⟩⟩
  · simp [e, hw, CmdError.code]
  · simp [e, hw, hok, CmdError.code]
  · simpa [e, hw, hok, CmdError.code] using ⟨x, hx, hbad⟩
  · simpa [e, hw, hok] using hvalid

/-- R281: no check of a table command gives code 3. -/
theorem tableCommand_code_ne_three : (tableCommand m ok compute p).code ≠ 3 := by
  rcases tableCommand_cases m ok compute p with ⟨_, e⟩ | ⟨_, _, ⟨_, e⟩ | ⟨_, _, _, _, _, e⟩ |
    ⟨_, _, e⟩⟩ <;> simp [e, CmdError.code]

/-- R283: the index that ValueOutOfRange records is that of the lowest bad entry; N is at most 256, so
that it fits its word. -/
theorem tableCommand_eq_valueOutOfRange {aux : Word}
    (h : tableCommand m ok compute p = .err .valueOutOfRange aux) : LowestBadEntry p aux.toNat := by
  rcases tableCommand_cases m ok compute p with ⟨_, e⟩ | ⟨n, hw, ⟨_, e⟩ | ⟨_, x, hx, hbad, hlow, e⟩ |
    ⟨_, _, e⟩⟩
  · cases e.symm.trans h
  · cases e.symm.trans h
  · cases e.symm.trans h
    obtain ⟨_, hmax, _, hN⟩ := supportedWidth_eq_some.1 hw
    have hbound : 2 ^ n ≤ 2 ^ 8 := Nat.pow_le_pow_right (by omega) hmax
    have hword : (zext32 x).toNat = x := Nat.mod_eq_of_lt (by omega)
    rw [hword, LowestBadEntry, hN]
    exact ⟨hx, hbad, hlow⟩
  · cases e.symm.trans h

end TableCommand

/-! ### The commands -/

/-- R133–R136: a table command runs the checks with its own minimum width and operand ranges. -/
theorem outcome_eq_tableCommand {i : Instr} (h : isTableCommand i = true) (p : Snapshot) :
    ∃ ok compute, outcome i p = tableCommand (minimumWidth i) ok compute p ∧
      ∀ n, ok n = true ↔ OperandsInRange i n := by
  cases i with
  | popcnt _ | bitdot _ _ | reservedE _ | reservedF _ => cases h
  | check | lap | nl | sac | dap | bicsac | bicnl =>
    exact ⟨_, _, rfl, fun _ => by simp [noOperands, OperandsInRange]⟩
  | walsh a b | ddt dx dy =>
    exact ⟨_, _, rfl, fun _ => by simp [twoMasksOk, maskOk, OperandsInRange]⟩
  | flip i j => exact ⟨_, _, rfl, fun _ => by simp [twoBitsOk, bitOk, OperandsInRange]⟩
  | biccorr i j k =>
    exact ⟨_, _, rfl, fun _ => by simp [bitAndPairOk, pairOk, bitOk, OperandsInRange, and_assoc]⟩
  | bicnlp j k =>
    exact ⟨_, _, rfl, fun _ => by simp [bitPairOk, pairOk, bitOk, OperandsInRange, and_assoc]⟩

/-- R106, R281: a reserved row's outcome. -/
theorem outcome_of_isReserved {i : Instr} (h : isReserved i = true) (p : Snapshot) :
    outcome i p = .err .illegalCommand 0 := by
  cases i with
  | reservedE _ | reservedF _ => rfl
  | _ => cases h

/-- R140: POPCNT and BITDOT, the other commands without a table, cannot fail. -/
theorem outcome_code_of_tableFree {i : Instr} (h : isTableCommand i = false)
    (hr : isReserved i = false) (p : Snapshot) : (outcome i p).code = 0 := by
  cases i with
  | popcnt _ | bitdot _ _ => rfl
  | reservedE _ | reservedF _ => cases hr
  | _ => cases h

/-- R134: the width of a supported length, as the model's search for it. -/
theorem exists_width_iff (i : Instr) (p : Snapshot) (q : Nat → Prop) :
    (∃ n, HasWidth p n ∧ minimumWidth i ≤ n ∧ q n) ↔
      ∃ n, supportedWidth (minimumWidth i) p.len.toNat = some n ∧ q n := by
  simp only [supportedWidth_eq_some, HasWidth]
  exact exists_congr fun n => by tauto

/-! ### R285 -/

section Legal

variable {i : Instr} (hr : isReserved i = false) (p : Snapshot)

include hr

/-- R281: code 3 is left to the illegal words. -/
theorem outcome_code_ne_three : (outcome i p).code ≠ 3 := by
  cases h : isTableCommand i with
  | false => simp [outcome_code_of_tableFree h hr]
  | true =>
    obtain ⟨ok, compute, e, _⟩ := outcome_eq_tableCommand h p
    rw [e]
    exact tableCommand_code_ne_three

theorem outcome_code_eq_one_iff :
    (outcome i p).code = 1 ↔ isTableCommand i = true ∧ ¬ Supported p.len.toNat i := by
  cases h : isTableCommand i with
  | false => simp [outcome_code_of_tableFree h hr]
  | true =>
    obtain ⟨ok, compute, e, _⟩ := outcome_eq_tableCommand h p
    rw [e, tableCommand_code_eq_one_iff, supportedWidth_eq_none, Supported]
    simp

theorem outcome_code_eq_four_iff :
    (outcome i p).code = 4 ↔ isTableCommand i = true ∧
      ∃ n, HasWidth p n ∧ minimumWidth i ≤ n ∧ ¬ OperandsInRange i n := by
  cases h : isTableCommand i with
  | false => simp [outcome_code_of_tableFree h hr]
  | true =>
    obtain ⟨ok, compute, e, hok⟩ := outcome_eq_tableCommand h p
    rw [e, tableCommand_code_eq_four_iff, exists_width_iff]
    simp [← hok]

theorem outcome_code_eq_two_iff :
    (outcome i p).code = 2 ↔ isTableCommand i = true ∧
      ∃ n, HasWidth p n ∧ minimumWidth i ≤ n ∧ OperandsInRange i n ∧
        ∃ x < 2 ^ n, 2 ^ n ≤ p.entry x := by
  cases h : isTableCommand i with
  | false => simp [outcome_code_of_tableFree h hr]
  | true =>
    obtain ⟨ok, compute, e, hok⟩ := outcome_eq_tableCommand h p
    rw [e, tableCommand_code_eq_two_iff, exists_width_iff]
    simp [← hok]

/-- R283: with code 2, RES_AUX holds the lowest index of a bad entry. -/
theorem complete_resAux_of_code_eq_two (s : State) (h : (outcome i p).code = 2) :
    LowestBadEntry p (s.complete (outcome i p)).resAux.toNat := by
  obtain ⟨htable, _⟩ := (outcome_code_eq_two_iff hr p).1 h
  obtain ⟨aux, haux⟩ := CmdResult.exists_of_code_eq_two h
  obtain ⟨ok, compute, e, _⟩ := outcome_eq_tableCommand htable p
  rw [haux]
  exact tableCommand_eq_valueOutOfRange (e.symm.trans haux)

end Legal

/-! ### The engine's turn with a command in flight -/

section EngineTurn

variable {s : State} (hm : engineMoves s = true) (hb : s.busy = true)

include hm hb

/-- R133: the step is the completion, beside which only the turn is used up. -/
theorem step_eq_completion : step s = completion (s.withSchedule s.schedule.tail) := by
  have hbusy : (s.withSchedule s.schedule.tail).busy = true := hb
  rw [step_engine ((nextTurn_eq_engine_iff s).2 hm), engineTurn_busy hbusy]

/-- R281: an illegal word, whether it decodes to a reserved row or to none. -/
theorem step_of_illegalWord (h : IllegalWord s.lastCmd) :
    step s = .next (failed (s.withSchedule s.schedule.tail) 3 0) := by
  rw [step_eq_completion hm hb]
  obtain ⟨r, e, ⟨i, hd, rfl⟩ | ⟨_, rfl⟩⟩ := completion_eq (s.withSchedule s.schedule.tail)
  · have hd : decode s.lastCmd = .ok i := hd
    have hr : isReserved i = true := by rwa [← encode_decode hd, illegalWord_encode_iff] at h
    rw [e, outcome_of_isReserved hr]
    rfl
  · exact e

/-- R105, R133: any other word is a command outside the reserved rows, and its outcome is reported. -/
theorem step_of_not_illegalWord (h : ¬ IllegalWord s.lastCmd) :
    ∃ i, decode s.lastCmd = .ok i ∧ isReserved i = false ∧
      step s = .next ((s.withSchedule s.schedule.tail).complete (outcome i s.snap)) := by
  obtain ⟨i, hd, hr⟩ := exists_decode_of_not_illegalWord h
  have hd' : decode (s.withSchedule s.schedule.tail).lastCmd = .ok i := hd
  refine ⟨i, hd, hr, ?_⟩
  rw [step_eq_completion hm hb, completion_of_decode hd', exec_eq_complete, State.withSchedule_snap]

end EngineTurn

/-- Settles O7: by the word alone; no command outside the reserved rows gives code 3. -/
theorem illegalWordCompletesIllegal : Obligations.IllegalWordCompletesIllegal := by
  unfold Obligations.IllegalWordCompletesIllegal
  intro s hm hb
  refine ⟨step_of_illegalWord hm hb, fun h => ?_⟩
  obtain ⟨i, _, hr, e⟩ := step_of_not_illegalWord hm hb h
  refine ⟨_, e, ?_⟩
  rw [complete_errcode]
  exact outcome_code_ne_three hr s.snap

/-- Settles O24: the length is the first check of every table command. -/
theorem unsupportedLengthFails : Obligations.UnsupportedLengthFails := by
  unfold Obligations.UnsupportedLengthFails
  intro s i htable hlen
  obtain ⟨ok, compute, e, _⟩ := outcome_eq_tableCommand htable s.snap
  rw [exec_eq_complete, e, tableCommand_of_unsupported (supportedWidth_eq_none.2 hlen)]
  rfl

/-- Settles O25: the operands are checked under the width found, before any entry is read. -/
theorem operandOutOfRangeFails : Obligations.OperandOutOfRangeFails := by
  unfold Obligations.OperandOutOfRangeFails
  intro s i n htable ⟨hpos, hmax, hlen⟩ hmin hout
  obtain ⟨ok, compute, e, hok⟩ := outcome_eq_tableCommand htable s.snap
  have hfalse : ok n = false := Bool.eq_false_iff.2 (mt (hok n).1 hout)
  have hw := supportedWidth_eq_some.2 ⟨hpos, hmax, hmin, hlen⟩
  rw [exec_eq_complete, e, tableCommand_of_operandsOut hw hfalse]
  rfl

/-- Settles O26: the search from entry 0 upward stops at the lowest bad entry. -/
theorem lowestBadEntryFails : Obligations.LowestBadEntryFails := by
  unfold Obligations.LowestBadEntryFails
  intro s i n x htable ⟨hpos, hmax, hlen⟩ hmin hin hx hbad hlow
  obtain ⟨ok, compute, e, hok⟩ := outcome_eq_tableCommand htable s.snap
  have hw := supportedWidth_eq_some.2 ⟨hpos, hmax, hmin, hlen⟩
  rw [exec_eq_complete, e, tableCommand_of_lowestBadEntry hw ((hok n).2 hin) hx hbad hlow]
  rfl

/-- Settles O27: an illegal word reports code 3 and no other; a legal one reports what the checks of
its command, which is the only one it decodes to, find first. -/
theorem firstErrorIsReported : Obligations.FirstErrorIsReported := by
  unfold Obligations.FirstErrorIsReported
  intro s t hm hb hstep
  by_cases hill : IllegalWord s.lastCmd
  · obtain rfl := Host.Outcome.next.inj ((step_of_illegalWord hm hb hill).symm.trans hstep)
    simp [failed, hill]
  · obtain ⟨i, hd, hr, e⟩ := step_of_not_illegalWord hm hb hill
    obtain rfl := Host.Outcome.next.inj (e.symm.trans hstep)
    rw [complete_errcode]
    refine ⟨iff_of_false (outcome_code_ne_three hr s.snap) hill, ?_, ?_, ?_,
      complete_resAux_of_code_eq_two hr s.snap _, CmdResult.code_le_four _⟩
    · simpa [hill, hd] using outcome_code_eq_one_iff hr s.snap
    · simpa [hill, hd] using outcome_code_eq_four_iff hr s.snap
    · simpa [hill, hd] using outcome_code_eq_two_iff hr s.snap

end Sys2Proof.Machine
end

section
/-! Table writes while a command is in flight (R321), and reset (R310–R313): its assertion, the time
while it is held, its release, and the invariants at it. -/

namespace Sys2Proof.Machine

open Sys2Proof.Safety

/-! ### Table writes while busy -/

/-- R321: while busy, a write to TABLE_LEN or to any TABLE word is dropped. -/
theorem writeReg_tableDropped {s : State} {off : Offset} (v : Word) (hb : s.busy = true)
    (h : registerAt off = .tableLen ∨ ∃ x, registerAt off = .table x) :
    s.writeReg off v = s.dropTableWrite := by
  obtain h | ⟨x, h⟩ := h
  · unfold State.writeReg
    rw [h]
    exact if_pos hb
  · rw [writeReg_table s v h]
    exact if_pos hb

/-- Settles O34: the scheduled write is dropped. -/
theorem tableWriteDroppedWhileBusy : Obligations.TableWriteDroppedWhileBusy := by
  unfold Obligations.TableWriteDroppedWhileBusy
  intro s off v ts h hr hb ha hoff
  have hreg : registerAt off = .tableLen ∨ ∃ x, registerAt off = .table x :=
    hoff.imp (registerAt_eq_tableLen ha).2 (exists_registerAt_eq_table ha).2
  rw [step_scheduled_write h ha, if_pos hr, writeReg_tableDropped v hb hreg]
  rfl

/-! ### Driving rst_n -/

section DriveReset

variable {s : State}

/-- R310, R311: asserting rst_n resets the registers and draws the table anew. -/
theorem driveReset_asserted (hr : s.rstN = true) :
    s.driveReset false = { s.resetRegisters.redrawTable with rstN := false } := by
  simp [State.driveReset, hr]

/-- R310, log 10: from rst_n low, the pin resets the registers and takes the level. -/
theorem driveReset_held (hr : s.rstN = false) (l : Bool) :
    s.driveReset l = { s.resetRegisters with rstN := l } := by
  simp [State.driveReset, hr]

variable {l : Bool} {ts : List Turn} (h : s.schedule = .reset l :: ts)

include h

theorem step_scheduled_reset : step s = .next ((s.withSchedule ts).driveReset l) := by
  simp [step, oneStep, nextTurn, takeTurn, h]

/-- A turn of the pin resets unless it drives rst_n high while it is high. -/
theorem stepResets_scheduled : stepResets s = !(s.rstN && l) := by
  simp [stepResets, nextTurn, h]

end DriveReset

/-! ### What is left by a reset -/

/-- R32, R39: STATUS is 0 when all its fields are. -/
theorem status_eq_zero {s : State} (hbusy : s.busy = false) (hdone : s.done = false)
    (herr : s.errcode = 0) (hoverrun : s.overrun = false) (hwrbusy : s.wrbusy = false) :
    s.status = 0 := by
  simp [State.status, State.err, hbusy, hdone, herr, hoverrun, hwrbusy]

/-- R310, R312: after a step that resets, every register reads as its reset value and irq is 0. -/
theorem stepResets_reads {s t : State} (hr : stepResets s = true) (h : step s = .next t) :
    t.ie = false ∧ t.tableLen = 0 ∧ t.lastCmd = 0 ∧ t.status = 0 ∧ t.resNum = 0 ∧ t.resDen = 0 ∧
      t.resAux = 0 ∧ t.irq = false := by
  obtain ⟨hie, hlen, hcmd, hbusy, hdone, herr, hoverrun, hwrbusy, hnum, hden, haux, _⟩ :=
    stepResets_registers hr h
  exact ⟨hie, hlen, hcmd, status_eq_zero hbusy hdone herr hoverrun hwrbusy, hnum, hden, haux,
    by simp [State.irq, hdone]⟩

/-- R311: under another reset count a written byte reads as before, and any other is that count's
draw. -/
theorem Memory.readByte_or_draw (epoch epoch' : Nat) (m : Memory) (a : Nat) :
    Memory.readByte epoch' m a = Memory.readByte epoch m a ∨
      Memory.readByte epoch' m a = Config.tableDraw epoch' a := by
  unfold Memory.readByte
  cases assocGet a m with
  | none => exact .inr rfl
  | some b => exact .inl rfl

/-- R311, U17: across a reset a byte keeps its value or is a new draw. -/
theorem Memory.readByte_kept_or_draw (epoch epoch' : Nat) (m : Memory) (a : Nat) :
    Memory.readByte epoch' (m.kept epoch') a = Memory.readByte epoch m a ∨
      Memory.readByte epoch' (m.kept epoch') a = Config.tableDraw epoch' a := by
  rw [Memory.readByte_kept]
  split
  · exact Memory.readByte_or_draw epoch epoch' m a
  · exact .inr rfl

/-- Settles O49: the registers by `stepResets_reads`, the table by `Memory.readByte_kept_or_draw`. -/
theorem resetAsserted : Obligations.ResetAsserted := by
  unfold Obligations.ResetAsserted
  intro s ts h hr
  have hstep := step_scheduled_reset h
  have hres : stepResets s = true := by simp [stepResets_scheduled h]
  obtain ⟨hie, hlen, hcmd, hstatus, hnum, hden, haux, hirq⟩ := stepResets_reads hres hstep
  have hr' : (s.withSchedule ts).rstN = true := hr
  refine ⟨_, hstep, hie, hlen, hcmd, hstatus, hnum, hden, haux, hirq, ?_⟩
  rw [driveReset_asserted hr']
  exact ⟨rfl, rfl, rfl, Memory.readByte_kept_or_draw s.epoch (s.epoch + 1) s.table⟩

/-- Settles O50: an access in reset only responds, and the release resets the registers once more. -/
theorem resetHeldAndReleased : Obligations.ResetHeldAndReleased := by
  unfold Obligations.ResetHeldAndReleased
  intro s ts hr
  have hr' : (s.withSchedule ts).rstN = false := hr
  refine ⟨fun off v h ha => ?_, fun off h ha => ?_, fun h => ?_⟩
  · rw [step_scheduled_write h ha, if_neg (by simp [hr])]
    rfl
  · rw [step_scheduled_access h, access_readTransfer, if_pos ha, if_neg (by simp [hr])]
    rfl
  · have hstep := step_scheduled_reset h
    have hres : stepResets s = true := by simp [stepResets_scheduled h, hr]
    obtain ⟨hie, hlen, hcmd, hstatus, hnum, hden, haux, hirq⟩ := stepResets_reads hres hstep
    have hdrive := driveReset_held hr' true
    refine ⟨_, hstep, by rw [hdrive], hie, hlen, hcmd, hstatus, hnum, hden, haux, hirq, ?_⟩
    rw [hdrive]
    exact ⟨rfl, rfl, rfl, rfl⟩

/-! ### The invariants at reset -/

/-- No register write moves the reset pin. -/
theorem WriteEffect.rstN_eq {s t : State} {off : Offset} {v : Word} (h : WriteEffect s off v t) :
    t.rstN = s.rstN := by
  cases h <;> rfl

/-- Settles O55, by the four effects of a step: with rst_n low no write takes effect and, the engine
being idle, no command completes. -/
theorem stepKeepsResetForm : Obligations.StepKeepsResetForm := by
  unfold Obligations.StepKeepsResetForm
  intro s t hs h hlow
  cases stepEffect_of_step h with
  | write b g hw he =>
    have hhigh : s.rstN = true := hw.1
    rw [State.beside_rstN, he.rstN_eq, hhigh] at hlow
    cases hlow
  | quiet => exact hs hlow
  | complete i _ _ hcomp =>
    rw [State.withSchedule_rstN, complete_rstN] at hlow
    obtain ⟨_, _, _, hidle, _⟩ := hs hlow
    obtain ⟨_, hbusy⟩ := hcomp
    rw [hidle] at hbusy
    cases hbusy
  | reset l _ hres =>
    obtain ⟨hie, hlen, hcmd, hbusy, hdone, herr, hoverrun, hwrbusy, hnum, hden, haux, _⟩ :=
      stepResets_registers hres h
    exact ⟨hie, hlen, hcmd, hbusy, hdone, herr, hoverrun, hwrbusy, hnum, hden, haux⟩

theorem tableForm_reset : TableForm State.reset := ⟨Memory.wf_nil, Memory.wf_nil⟩

/-- No command is in flight. -/
theorem busyForm_reset : BusyForm State.reset := fun hb => Bool.noConfusion hb

/-- ERRCODE is 0, and no completion waits to be acknowledged. -/
theorem outcomeForm_reset : OutcomeForm State.reset :=
  ⟨Nat.zero_le 4, fun herr => absurd rfl herr, fun herr => absurd rfl herr,
    fun herr => absurd herr (by decide), fun hdone => Bool.noConfusion hdone⟩

theorem resetForm_reset : ResetForm State.reset :=
  fun _ => ⟨rfl, rfl, rfl, rfl, rfl, rfl, rfl, rfl, rfl, rfl, rfl⟩

/-- Settles O56, one invariant at a time. -/
theorem resetMeetsInvariants : Obligations.ResetMeetsInvariants :=
  ⟨tableForm_reset, busyForm_reset, outcomeForm_reset, resetForm_reset⟩

end Sys2Proof.Machine
end
